-- ==== Sys2Proof/Word.lean ====
section
/-!
DEFINITION. The widths the spec fixes (00_scope.md R9, R10, R12): every value of the core is an unsigned
integer of one of these widths; the one signed value, the repeat count, is an Int once it leaves its field. With
them the names and widths of the response fields.
-/
namespace Sys2Proof

/-- VendorParity and the packed flags are 4 bits wide. -/
abbrev Nibble := BitVec 4
/-- A command, a group G1 to G4, one byte of a serialised word. -/
abbrev Byte := BitVec 8
/-- An address (R9). -/
abbrev Address := BitVec 12
/-- A vendor code; also the input fields ADDR_IN and CMD_IN, whose widths R10 sets to 16. -/
abbrev Half := BitVec 16
/-- A transmission word, and the remainder chunk of a capture. -/
abbrev TxWord := BitVec 32
/-- The 48-bit frame value F (30_encoding.md R70). -/
abbrev Frame := BitVec 48
/-- The request word REQ (30_encoding.md R60). -/
abbrev Req := BitVec 64

namespace Machine

/-- The fields of a response register set (10_state.md R28). -/
inductive Field where
  | status
  | variant
  | vendor
  | addr
  | cmd
  | nbits
  | vpf
  | fpf
  | rpt
  | xtra
  | extra
  | vpar
  | word0
  | word1
  deriving DecidableEq, Repr

/-- The width of each field (10_state.md R28). -/
def Field.width : Field → Nat
  | .status => 4
  | .variant => 3
  | .vendor => 16
  | .addr => 12
  | .cmd => 8
  | .nbits => 8
  | .vpf => 1
  | .fpf => 1
  | .rpt => 1
  | .xtra => 1
  | .extra => 16
  | .vpar => 4
  | .word0 => 32
  | .word1 => 32

end Machine
end Sys2Proof
end

