-- ==== Sys2Proof/Config.lean ====
section
/-!
DEFINITION. What an implementation fixes (00_scope.md R10): the protocol constants, the number of requesters and
the platform's bus parameters. The OPEN ones are opaque: no proof can see their values.
-/
namespace Sys2Proof

/-- The record of protocol constants (10_state.md R24). Durations and the carrier frequency are natural
numbers of no stated unit (DESIGN CHOICE, log 11); the core never reads one. -/
structure Proto where
  hdrMark : Nat
  hdrSpace : Nat
  bitMark : Nat
  oneSpace : Nat
  zeroSpace : Nat
  carrier : Nat
  repeatPeriod : Nat
  lsbFirst : Bool
  stopBit : Bool
  deriving DecidableEq, Repr

/-- The two byte orders a platform may serialise a word in (20_memory.md R53; DESIGN CHOICE, log 15). -/
inductive ByteOrder where
  | lowFirst
  | highFirst
  deriving DecidableEq, Repr, Inhabited

/-- What a platform that wraps the block as a memory-mapped device places for one requester: the request word and
the response fields, the block's two kinds of access (20_memory.md R48). -/
inductive BusRegister where
  | request
  | response (f : Machine.Field)
  deriving DecidableEq, Repr

/-- The parameter BASE (20_memory.md R50): "the base address and the register offsets". The spec says nothing more of
it; here every requester's every register has an offset (DESIGN CHOICE, log 15). -/
structure Base where
  address : Nat
  offset : Nat → BusRegister → Nat

namespace Config

/-- OPEN (R24, R8). -/
opaque hdrMark : Nat
/-- OPEN (R24, R8). -/
opaque hdrSpace : Nat
/-- OPEN (R24, R8). -/
opaque bitMark : Nat
/-- OPEN (R24, R8). -/
opaque oneSpace : Nat
/-- OPEN (R24, R8). -/
opaque zeroSpace : Nat
/-- OPEN (R24, R8). -/
opaque carrier : Nat
/-- OPEN (R24, R8). -/
opaque repeatPeriod : Nat

/-- PROTO (R24): seven OPEN values, `lsbFirst` and `stopBit` fixed at true. No step writes it (R25). -/
def proto : Proto where
  hdrMark := hdrMark
  hdrSpace := hdrSpace
  bitMark := bitMark
  oneSpace := oneSpace
  zeroSpace := zeroSpace
  carrier := carrier
  repeatPeriod := repeatPeriod
  lsbFirst := true
  stopBit := true

/-- How many requesters there are beside requester 0: OPEN (R10, 92_eei_decisions.md D31). -/
opaque extraRequesters : Nat

/-- NUM_REQUESTERS, any natural number at least 1 (R10, 60_exceptions.md R183). -/
def numRequesters : Nat := extraRequesters + 1

/-- BUS_BYTE_ORDER: the platform's, OPEN (20_memory.md R53). -/
opaque busByteOrder : ByteOrder

/-- The base address of BASE: the platform's, OPEN (20_memory.md R50). -/
opaque busBase : Nat

/-- The register offsets of BASE, by requester and register: the platform's, OPEN (20_memory.md R50). -/
opaque busOffset : Nat → BusRegister → Nat

/-- BASE (20_memory.md R50). No step reads it: the block itself has no address map. -/
def base : Base where
  address := busBase
  offset := busOffset

end Config
end Sys2Proof
end

