-- ==== Sys2Proof/Syntax.lean ====
section
/-!
DEFINITION. The nine operations (30_encoding.md R61), one constructor per row of the opcode table, each with the
request-word fields the table lists for it; why a word is refused; and the assembler's lines (R78).
-/
namespace Sys2Proof

/-- One request (R61). The operands are the raw fields of the request word; Machine/Operands.lean turns them
into operand values (R64). Every value of this type is a well-formed request: the fields' types say their widths. -/
inductive Instr where
  /-- ENCODE, OP 0x1. -/
  | encode (vendor addrIn cmdIn : Half) (rep : Byte)
  /-- ENCODE_PANASONIC, OP 0x2. -/
  | encodePanasonic (addrIn cmdIn : Half) (rep : Byte)
  /-- ENCODE_DENON, OP 0x3. -/
  | encodeDenon (addrIn cmdIn : Half) (rep : Byte)
  /-- ENCODE_MITSUBISHI, OP 0x4. -/
  | encodeMitsubishi (addrIn cmdIn : Half) (rep : Byte)
  /-- ENCODE_SHARP, OP 0x5. -/
  | encodeSharp (addrIn cmdIn : Half) (rep : Byte)
  /-- ENCODE_JVC, OP 0x6. -/
  | encodeJvc (addrIn cmdIn : Half) (rep : Byte)
  /-- DECODE, OP 0x7: no operand comes from the word. -/
  | decode
  /-- VPARITY, OP 0x8. -/
  | vparity (vendor : Half)
  /-- CLASSIFY, OP 0x9. -/
  | classify (vendor : Half)
  deriving DecidableEq, Repr

/-- Why a request word names no operation (R62, R63). -/
inductive DecodeError where
  /-- `RSVD != 0`, whatever the OP (R62). -/
  | reservedBits (rsvd : Nibble)
  /-- OP 0x0 or 0xA to 0xF (R63). -/
  | reservedOp (op : Nibble)
  deriving DecidableEq, Repr

/-- Why a list of bytes on a platform's bus names no operation. -/
inductive BusError where
  /-- Not 8 bytes: every request is exactly 64 bits (R60). -/
  | wrongLength (bytes : Nat)
  /-- The word they hold is refused. -/
  | word (e : DecodeError)
  deriving DecidableEq, Repr

/-- One request in the assembler's syntax (R78), its operands as the numbers that were written. -/
inductive AsmLine where
  | encode (vendor address command rep : Int)
  | encodePanasonic (address command rep : Int)
  | encodeDenon (address command rep : Int)
  | encodeMitsubishi (address command rep : Int)
  | encodeSharp (address command rep : Int)
  | encodeJvc (address command rep : Int)
  | decode
  | vparity (vendor : Int)
  | classify (vendor : Int)
  deriving DecidableEq, Repr

/-- Why the assembler rejects a line (R78). -/
inductive AsmError where
  /-- The mnemonic is none of the nine. -/
  | unknownMnemonic
  /-- An operand is no decimal and no `0x` number. -/
  | badNumber
  /-- The form has another number of operands. -/
  | operandCount
  /-- An operand does not fit its field. -/
  | outOfRange
  deriving DecidableEq, Repr

end Sys2Proof
end

