-- ==== Sys2Proof/WellFormed.lean ====
section
/-!
DEFINITION. The checks on requests: which request words name an operation (30_encoding.md R62, R63) and which
assembler lines fit their fields (R78). An `Instr` needs no check of its own: its fields carry their widths.
-/
namespace Sys2Proof

/-- A request word names an operation iff `RSVD = 0` and OP is 0x1 to 0x9 (R63). -/
def reqWellFormed (w : Req) : Bool :=
  w.extractLsb' 4 4 == 0 && 1 ≤ (w.extractLsb' 0 4).toNat && (w.extractLsb' 0 4).toNat ≤ 9

/-- "`vendor` must fit 16 bits, `address` and `command` 16 bits each" (R78). -/
def fitsHalf (n : Int) : Bool := decide (0 ≤ n) && decide (n < 65536)

/-- "`repeat` must lie in -128 .. 127" (R78). -/
def fitsRepeat (n : Int) : Bool := decide (-128 ≤ n) && decide (n ≤ 127)

/-- The three operands every vendor-fixed encode has. -/
def fitsFixed (address command rep : Int) : Bool :=
  fitsHalf address && fitsHalf command && fitsRepeat rep

/-- Every operand of the line fits its field (R78). -/
def AsmLine.wellFormed : AsmLine → Bool
  | .encode v a c r => fitsHalf v && fitsFixed a c r
  | .encodePanasonic a c r => fitsFixed a c r
  | .encodeDenon a c r => fitsFixed a c r
  | .encodeMitsubishi a c r => fitsFixed a c r
  | .encodeSharp a c r => fitsFixed a c r
  | .encodeJvc a c r => fitsFixed a c r
  | .decode => true
  | .vparity v => fitsHalf v
  | .classify v => fitsHalf v

end Sys2Proof
end

