-- ==== Sys2Proof/Decode.lean ====
section
/-!
DEFINITION. The request word and its fields (30_encoding.md R60, R61): the decoder, total on every word and on
every list of bytes, the encoder, and the byte orders a platform may serialise a word in (20_memory.md R53).
-/
namespace Sys2Proof

/-- `REQ[3:0]`. -/
def reqOp (w : Req) : Nibble := w.extractLsb' 0 4
/-- `REQ[7:4]`. -/
def reqRsvd (w : Req) : Nibble := w.extractLsb' 4 4
/-- `REQ[15:8]`. -/
def reqRepeat (w : Req) : Byte := w.extractLsb' 8 8
/-- `REQ[31:16]`. -/
def reqVendor (w : Req) : Half := w.extractLsb' 16 16
/-- `REQ[47:32]`. -/
def reqAddrIn (w : Req) : Half := w.extractLsb' 32 16
/-- `REQ[63:48]`. -/
def reqCmdIn (w : Req) : Half := w.extractLsb' 48 16

/-- The operation an OP value selects, with the fields R61 lists for it. -/
def decodeOp (w : Req) : Except DecodeError Instr :=
  match (reqOp w).toNat with
  | 1 => .ok (.encode (reqVendor w) (reqAddrIn w) (reqCmdIn w) (reqRepeat w))
  | 2 => .ok (.encodePanasonic (reqAddrIn w) (reqCmdIn w) (reqRepeat w))
  | 3 => .ok (.encodeDenon (reqAddrIn w) (reqCmdIn w) (reqRepeat w))
  | 4 => .ok (.encodeMitsubishi (reqAddrIn w) (reqCmdIn w) (reqRepeat w))
  | 5 => .ok (.encodeSharp (reqAddrIn w) (reqCmdIn w) (reqRepeat w))
  | 6 => .ok (.encodeJvc (reqAddrIn w) (reqCmdIn w) (reqRepeat w))
  | 7 => .ok .decode
  | 8 => .ok (.vparity (reqVendor w))
  | 9 => .ok (.classify (reqVendor w))
  | _ => .error (.reservedOp (reqOp w))

/-- The decoder: `RSVD` is checked first, whatever the OP (R62), then the OP (R63). -/
def decodeReq (w : Req) : Except DecodeError Instr :=
  if reqRsvd w = 0 then decodeOp w else .error (.reservedBits (reqRsvd w))

/-- Each field in its place (R60), `RSVD = 0`. -/
def packReq (op : Nibble) (rep : Byte) (vendor addrIn cmdIn : Half) : Req :=
  op.setWidth 64 ||| (rep.setWidth 64 <<< 8) ||| (vendor.setWidth 64 <<< 16) |||
    (addrIn.setWidth 64 <<< 32) ||| (cmdIn.setWidth 64 <<< 48)

/-- The request word of an operation; the fields it does not read are 0 (R78). -/
def encodeReq : Instr → Req
  | .encode v a c r => packReq 0x1 r v a c
  | .encodePanasonic a c r => packReq 0x2 r 0 a c
  | .encodeDenon a c r => packReq 0x3 r 0 a c
  | .encodeMitsubishi a c r => packReq 0x4 r 0 a c
  | .encodeSharp a c r => packReq 0x5 r 0 a c
  | .encodeJvc a c r => packReq 0x6 r 0 a c
  | .decode => packReq 0x7 0 0 0 0
  | .vparity v => packReq 0x8 0 v 0 0
  | .classify v => packReq 0x9 0 v 0 0

/-- The number whose bytes, least significant first, are the list. -/
def bytesValue : List Byte → Nat
  | [] => 0
  | b :: bs => b.toNat + 256 * bytesValue bs

/-- The `n` low bytes of a number, least significant first. -/
def valueBytes : Nat → Nat → List Byte
  | 0, _ => []
  | n + 1, v => BitVec.ofNat 8 v :: valueBytes n (v / 256)

/-- Bytes given least significant first, as a byte order lays them out; and such bytes back again. -/
def orderBytes (order : ByteOrder) (bs : List Byte) : List Byte :=
  match order with
  | .lowFirst => bs
  | .highFirst => bs.reverse

/-- The bytes of a request word in a platform's byte order (20_memory.md R53). -/
def reqBytes (order : ByteOrder) (w : Req) : List Byte := orderBytes order (valueBytes 8 w.toNat)

/-- The request word that bytes in a platform's byte order hold. -/
def bytesReq (order : ByteOrder) (bs : List Byte) : Req := BitVec.ofNat 64 (bytesValue (orderBytes order bs))

/-- The decoder on bytes in a platform's byte order; "Every request is exactly 64 bits" (R60). -/
def decodeBytes (order : ByteOrder) (bs : List Byte) : Except BusError Instr :=
  if bs.length = 8 then (decodeReq (bytesReq order bs)).mapError .word
  else .error (.wrongLength bs.length)

/-- The request word whose low `nbits` bits are `w`'s, the bits above them 0. -/
def tableReq (nbits w : Nat) : Req := BitVec.ofNat 64 (w % 2 ^ nbits)

/-- What the decoder reads from a row of the opcode table. -/
def decodeTableWord (nbits w : Nat) : Option Instr :=
  match decodeReq (tableReq nbits w) with
  | .ok i => some i
  | .error _ => none

end Sys2Proof
end

