-- ==== Sys2Proof/Machine/State.lean ====
section
/-!
DEFINITION. The state of the block (10_state.md R20): response register sets, history and refusal mark; with them
the model's own fields, which hold what the environment does next and what it answers. VENDOR_TABLE and PROTO are
constants (R25): `vendorTable` in Machine/Vendor.lean and `Config.proto`.
-/
namespace Sys2Proof.Machine

/-- The six protocol variants (40_vendor_parity.md R108). Codes 6 and 7 do not exist (93 I11). -/
inductive Variant where
  | generic
  | panasonic
  | denon
  | mitsubishi
  | sharp
  | jvc
  deriving DecidableEq, Repr

/-- The four completion statuses (60_exceptions.md R171). Codes 4 to 15 do not exist (93 I11). -/
inductive Status where
  | ok
  | lengthMismatch
  | headerMismatch
  | bitDecodeFailure
  deriving DecidableEq, Repr

/-- One entry of VENDOR_TABLE (R23). -/
structure VendorEntry where
  code : Half
  variant : Variant
  deriving DecidableEq, Repr

/-- One response register set RSP[a] (R28): `none` is a field the last completed operation did not write. -/
structure RespSet where
  status : Option Status := none
  variant : Option Variant := none
  vendor : Option Half := none
  addr : Option Address := none
  cmd : Option Byte := none
  nbits : Option Byte := none
  vpf : Option Bool := none
  fpf : Option Bool := none
  rpt : Option Bool := none
  xtra : Option Bool := none
  extra : Option Half := none
  vpar : Option Nibble := none
  word0 : Option TxWord := none
  word1 : Option TxWord := none
  deriving DecidableEq, Repr

/-- Every field `none`: a register set after reset (R35). -/
def RespSet.empty : RespSet where

/-- All the response register sets: the requesters whose set is not empty, by rising id. A requester that is not
listed has the empty set (DESIGN CHOICE, log 10). -/
abbrev RespFile := List (Nat × RespSet)

/-- CAP, the capture oracle's answers for one DECODE (R27). -/
structure Capture where
  len : Nat
  header : Bool
  vendorBits : Option Half
  restBits : Option TxWord
  repeatOk : Bool
  deriving DecidableEq, Repr

/-- One interaction with an external collaborator, tagged with its requester `a` (R32). -/
inductive Event where
  /-- `Emit(a, PROTO, [WORD0, WORD1], bitCount, repeatCount)` (41_encoder.md R125). -/
  | emit (a : Nat) (proto : Proto) (word0 word1 : TxWord) (bitCount : Nat) (rep : Int)
  /-- `QLen(a, n)` (42_decoder.md R141). -/
  | qLen (a : Nat) (n : Nat)
  /-- `QHeader(a, PROTO, ok)` (42_decoder.md R142). -/
  | qHeader (a : Nat) (proto : Proto) (ok : Bool)
  /-- `QBits(a, PROTO, count, offset, result)` (42_decoder.md R143, R146). -/
  | qBits (a : Nat) (proto : Proto) (count offset : Nat) (result : Option (BitVec count))
  /-- `QRepeat(a, PROTO.repeatPeriod, ok)` (42_decoder.md R150). -/
  | qRepeat (a : Nat) (period : Nat) (ok : Bool)
  /-- `Reset` (70_reset_and_hazards.md R190). -/
  | reset
  deriving DecidableEq, Repr

/-- What the environment does in one step of the block (log 1). -/
inductive Input where
  /-- Requester `a` issues the request word `req`; `capture` holds the oracle's answers to it. -/
  | request (a : Nat) (req : Req) (capture : Capture)
  /-- Requester `a` reads the field `f` of its own register set. -/
  | read (a : Nat) (f : Field)
  /-- The host resets the block (70_reset_and_hazards.md R190). -/
  | reset
  deriving DecidableEq, Repr

/-- The value a read delivered to its requester, at the field's width. -/
structure ReadOut where
  requester : Nat
  field : Field
  value : BitVec field.width
  deriving DecidableEq, Repr

/-- The machine's state. `rsp`, `hist` and `refused` are the spec's (R20); the rest is the model's own. -/
structure State where
  /-- RSP (R28). -/
  rsp : RespFile
  /-- HIST, oldest event first (R32). -/
  hist : List Event
  /-- REFUSED (R33). -/
  refused : Bool
  /-- The model's own: what the requesters and the host do next, oldest first (log 1). -/
  inputs : List Input
  /-- The model's own: the requester whose request is in service (log 3). -/
  requester : Nat
  /-- The model's own: the oracle's answers to the request in service (log 3). -/
  capture : Capture
  /-- The model's own: what the last read delivered (log 7). -/
  readPort : Option ReadOut
  deriving DecidableEq, Repr

/-- The answers of an oracle that has no sample: what `capture` holds before the first request (log 3). -/
def Capture.noSamples : Capture where
  len := 0
  header := false
  vendorBits := none
  restBits := none
  repeatOk := false

/-- First power-on (R35): every field of every RSP[a] `none`, HIST empty, REFUSED 0 (log 4); no input waits. -/
def State.reset : State where
  rsp := []
  hist := []
  refused := false
  inputs := []
  requester := 0
  capture := Capture.noSamples
  readPort := none

/-- What stops the machine with a fault. -/
inductive Fault where
  /-- Raised by a read: requester `a` read the field `f` while it held `none` (R29, 60_exceptions.md R177).
  Safe: the spec names this fault and gives no value. -/
  | readUnwritten (a : Nat) (f : Field)
  deriving DecidableEq, Repr

/-- Why a step has no meaning. -/
inductive Refusal where
  /-- Raised by an arm of exec that has no meaning yet. Safe: the model stops. -/
  | notModelled (mnemonic : String)
  /-- Raised by a request word with `RSVD != 0` (60_exceptions.md R176); `after` is the state the refused request
  leaves. Safe: the spec refuses the word. -/
  | reservedBits (a : Nat) (req : Req) (after : State)
  /-- Raised by a request word with OP 0x0 or 0xA to 0xF (60_exceptions.md R176); `after` is the state the refused
  request leaves. Safe: the spec refuses the word. -/
  | reservedOperation (a : Nat) (req : Req) (after : State)
  /-- Raised by a request or a read in a run whose REFUSED is 1, which has no meaning (R33; log 6).
  Safe: the model stops. -/
  | afterRefusal
  /-- Raised by an input that names a requester at or above NUM_REQUESTERS, which does not exist
  (60_exceptions.md R183; log 9). Safe: the model stops. -/
  | noSuchRequester (a : Nat)
  deriving DecidableEq, Repr

end Sys2Proof.Machine
end

