-- ==== Sys2Proof/Machine/Vendor.lean ====
section
/-!
DEFINITION. The pure functions the encoder and the decoder share (40_vendor_parity.md): VendorParity, FrameParity,
VENDOR_TABLE and Classify, and the spec's codes for variants and statuses.
-/
namespace Sys2Proof.Machine

/-- VendorParity, the parity nibble generator (R100). -/
def vendorParity (v : Half) : Nibble :=
  let b : Byte := v.extractLsb' 8 8 ^^^ v.extractLsb' 0 8
  let p : Byte := b ^^^ (b >>> 4)
  p.extractLsb' 0 4

/-- FrameParity (R104). -/
def frameParity (g1 g2 g3 : Byte) : Byte := g1 ^^^ g2 ^^^ g3

/-- Panasonic's vendor code (10_state.md R23). -/
def panasonicCode : Half := 0x2002
/-- Denon's vendor code (10_state.md R23). -/
def denonCode : Half := 0x3254
/-- Mitsubishi's vendor code (10_state.md R23). -/
def mitsubishiCode : Half := 0xCB23
/-- Sharp's vendor code (10_state.md R23). -/
def sharpCode : Half := 0x5AAA
/-- JVC's vendor code (10_state.md R23). -/
def jvcCode : Half := 0x0103

/-- VENDOR_TABLE, a ROM of five entries (10_state.md R23, R25). -/
def vendorTable : List VendorEntry :=
  [⟨panasonicCode, .panasonic⟩, ⟨denonCode, .denon⟩, ⟨mitsubishiCode, .mitsubishi⟩,
    ⟨sharpCode, .sharp⟩, ⟨jvcCode, .jvc⟩]

/-- The variant of the first entry with the code `v`, if the table has one. -/
def lookupVendor (v : Half) : List VendorEntry → Option Variant
  | [] => none
  | e :: es => if v = e.code then some e.variant else lookupVendor v es

/-- Classify, "a lookup in VENDOR_TABLE" (R107): the variant, and the vendor code itself where it is Generic. -/
def classify (v : Half) : Variant × Option Half :=
  match lookupVendor v vendorTable with
  | some var => (var, none)
  | none => (.generic, some v)

/-- The 3-bit code of a variant (R108). -/
def Variant.code : Variant → BitVec 3
  | .generic => 0
  | .panasonic => 1
  | .denon => 2
  | .mitsubishi => 3
  | .sharp => 4
  | .jvc => 5

/-- The 4-bit code of a status (60_exceptions.md R171). -/
def Status.code : Status → BitVec 4
  | .ok => 0
  | .lengthMismatch => 1
  | .headerMismatch => 2
  | .bitDecodeFailure => 3

end Sys2Proof.Machine
end

