-- ==== Sys2Proof/Machine/Flags.lean ====
section
/-!
DEFINITION. The four flags (10_state.md R31): how each is computed, and the packed view FLAGS.
-/
namespace Sys2Proof.Machine

/-- VPF: the received parity nibble is not the one expected for the vendor code (42_decoder.md R148). -/
def vendorParityFailed (v : Half) (rxParityNibble : Nibble) : Bool := rxParityNibble != vendorParity v

/-- FPF: the received frame parity is not the one expected for G1, G2, G3 (42_decoder.md R148). -/
def frameParityFailed (g1 g2 g3 rxFrameParity : Byte) : Bool := rxFrameParity != frameParity g1 g2 g3

/-- RPT: the repeat-spacing primitive's answer (42_decoder.md R150). -/
def isRepeat (answer : Bool) : Bool := answer

/-- XTRA: the classifier kept the vendor code, which it does for Generic alone (40_vendor_parity.md R109). -/
def hasExtraInfo (ext : Option Half) : Bool := ext.isSome

/-- `FLAGS = {XTRA, RPT, FPF, VPF}` with VPF in bit 0, "defined only when all four flags hold values" (R31). -/
def RespSet.flags (r : RespSet) : Option Nibble :=
  match r.xtra, r.rpt, r.fpf, r.vpf with
  | some x, some rp, some f, some v =>
    some (BitVec.ofBool x ++ (BitVec.ofBool rp ++ (BitVec.ofBool f ++ BitVec.ofBool v)))
  | _, _, _, _ => none

end Sys2Proof.Machine
end

