-- ==== Sys2Proof/Machine/Ops.lean ====
section
/-!
DEFINITION. The named operations on the state: reading and replacing a response register set, recording events,
completing an operation, ending it with a structural failure, refusing a request word, and reset.
-/
namespace Sys2Proof.Machine

/-- RSP[a]; a requester that is not listed has the empty set (log 10). -/
def readRsp (a : Nat) : RespFile → RespSet
  | [] => .empty
  | e :: es => if a = e.1 then e.2 else readRsp a es

/-- The entry of a register set: none for the empty set, so that equal files are equal lists (log 10). -/
def rspEntry (a : Nat) (r : RespSet) : RespFile := if r = .empty then [] else [(a, r)]

/-- RSP[a] becomes `r`; every other requester's set stays. Ids stay rising. -/
def writeRsp (a : Nat) (r : RespSet) : RespFile → RespFile
  | [] => rspEntry a r
  | e :: es =>
    if a < e.1 then rspEntry a r ++ e :: es
    else if a = e.1 then rspEntry a r ++ es
    else e :: writeRsp a r es

/-- A list whose ids all exceed `lo` (where there is a `lo`), rise strictly, and list no empty set. -/
def rspWfFrom : Option Nat → RespFile → Bool
  | _, [] => true
  | lo, e :: es => lo.all (· < e.1) && e.2 != .empty && rspWfFrom (some e.1) es

/-- The canonical form of the register sets (log 10). -/
def rspWf (f : RespFile) : Bool := rspWfFrom none f

/-- A field of a register set, at its width (10_state.md R28, 20_memory.md R48); `none` where it is unwritten. -/
def RespSet.get (r : RespSet) : (f : Field) → Option (BitVec f.width)
  | .status => r.status.map Status.code
  | .variant => r.variant.map Variant.code
  | .vendor => r.vendor
  | .addr => r.addr
  | .cmd => r.cmd
  | .nbits => r.nbits
  | .vpf => r.vpf.map BitVec.ofBool
  | .fpf => r.fpf.map BitVec.ofBool
  | .rpt => r.rpt.map BitVec.ofBool
  | .xtra => r.xtra.map BitVec.ofBool
  | .extra => r.extra
  | .vpar => r.vpar
  | .word0 => r.word0
  | .word1 => r.word1

/-- RSP[a] in a state. -/
def State.rspOf (s : State) (a : Nat) : RespSet := readRsp a s.rsp

/-- Append events to HIST, which removes none (10_state.md R32). -/
def State.record (s : State) (es : List Event) : State := { s with hist := s.hist ++ es }

/-- A completed operation of the requester in service replaces all of its register set (10_state.md R30). -/
def State.complete (s : State) (r : RespSet) : State := { s with rsp := writeRsp s.requester r s.rsp }

/-- The register set a structural failure leaves: STATUS alone (60_exceptions.md R170). -/
def failureResult (st : Status) : RespSet := { RespSet.empty with status := some st }

/-- `raise E` (60_exceptions.md R170): the operation ends, STATUS holds E's code, every other field of RSP[a] is
`none`, and the events recorded so far stay. -/
def State.raise (s : State) (st : Status) : State := s.complete (failureResult st)

/-- What a refused request does (60_exceptions.md R176): REFUSED becomes 1; RSP and HIST stay. -/
def State.refuse (s : State) : State := { s with refused := true }

/-- Reset, an action of the host (10_state.md R35, 70_reset_and_hazards.md R190): every field of every RSP[a] is
`none`, HIST gains `Reset`, REFUSED keeps its value. The model's own fields stay (log 18). -/
def State.hostReset (s : State) : State := { s with rsp := [], hist := s.hist ++ [.reset] }

/-- Reading a field of RSP[a] (10_state.md R29, 20_memory.md R49): the value goes to the reader and nothing else
changes; a field that holds `none` is a fault. -/
def State.readField (s : State) (a : Nat) (f : Field) : Host.Outcome State Fault Refusal :=
  match (s.rspOf a).get f with
  | some v => .next { s with readPort := some ⟨a, f, v⟩ }
  | none => .fault (.readUnwritten a f)

end Sys2Proof.Machine
end

