-- ==== Sys2Proof/Machine/FrameDecoder.lean ====
section
/-!
DEFINITION. The frame decoder (42_decoder.md): a linear state machine over the oracle's answers. Each stage asks
its query, records it, and either ends the operation or hands on to the next stage.
-/
namespace Sys2Proof.Machine

/-- The length of a capture of one frame, `2×48+4` (R141). -/
def expectedLength : Nat := 2 * 48 + 4

/-- The sample offset of the vendor chunk: the first bit mark (R143). -/
def vendorOffset : Nat := 3

/-- The sample offset of the remainder chunk: "immediately after the vendor chunk" (R146). -/
def restOffset : Nat := vendorOffset + 2 * 16

/-- `rxParityNibble = r[3:0]` (30_encoding.md R75). -/
def rxParityNibble (r : TxWord) : Nibble := r.extractLsb' 0 4
/-- `address = r[15:4]` (30_encoding.md R75). -/
def rxAddress (r : TxWord) : Address := r.extractLsb' 4 12
/-- `command = r[23:16]`, which is G3 (30_encoding.md R75). -/
def rxCommand (r : TxWord) : Byte := r.extractLsb' 16 8
/-- `rxFrameParity = r[31:24]`, which is G4 (30_encoding.md R75). -/
def rxFrameParity (r : TxWord) : Byte := r.extractLsb' 24 8
/-- `r[7:0]`, which is G1 (20_memory.md R43). -/
def rxG1 (r : TxWord) : Byte := r.extractLsb' 0 8
/-- `r[15:8]`, which is G2 (20_memory.md R43). -/
def rxG2 (r : TxWord) : Byte := r.extractLsb' 8 8

/-- Stages 6, 7 and 9 (R147, R148, R151): the register set a successful decode of the vendor chunk `v` and the
remainder chunk `r` leaves, `rp` being the answer about repeat spacing. -/
def decodeResult (v : Half) (r : TxWord) (rp : Bool) : RespSet :=
  { RespSet.empty with
    status := some .ok
    variant := some (classify v).1
    vendor := some v
    addr := some (rxAddress r)
    cmd := some (rxCommand r)
    nbits := some 48
    vpf := some (vendorParityFailed v (rxParityNibble r))
    fpf := some (frameParityFailed (rxG1 r) (rxG2 r) (rxCommand r) (rxFrameParity r))
    rpt := some (isRepeat rp)
    xtra := some (hasExtraInfo (classify v).2)
    extra := (classify v).2 }

/-- Stages 6 to 9: the repeat query is asked on the success path alone, with PROTO's repeat period (R150). -/
def decodeFinish (v : Half) (r : TxWord) (s : State) : State :=
  let rp := s.capture.repeatOk
  (s.record [.qRepeat s.requester Config.proto.repeatPeriod rp]).complete (decodeResult v r rp)

/-- Stage 5, the remainder chunk: 32 bits from sample 35 (R146). -/
def decodeRest (v : Half) (s : State) : State :=
  let rb := s.capture.restBits
  let s := s.record [.qBits s.requester Config.proto 32 restOffset rb]
  match rb with
  | none => s.raise .bitDecodeFailure
  | some r => decodeFinish v r s

/-- Stages 3 and 4, the vendor chunk: 16 bits from sample 3 (R143). Classification cannot fail (R144), and its
result is used in stage 9 alone. -/
def decodeVendor (s : State) : State :=
  let vb := s.capture.vendorBits
  let s := s.record [.qBits s.requester Config.proto 16 vendorOffset vb]
  match vb with
  | none => s.raise .bitDecodeFailure
  | some v => decodeRest v s

/-- Stage 2, the header check (R142). -/
def decodeHeader (s : State) : State :=
  let h := s.capture.header
  let s := s.record [.qHeader s.requester Config.proto h]
  if h then decodeVendor s else s.raise .headerMismatch

/-- Stage 1, the length check (R141). -/
def decodeLength (s : State) : State :=
  let n := s.capture.len
  let s := s.record [.qLen s.requester n]
  if n = expectedLength then decodeHeader s else s.raise .lengthMismatch

/-- DECODE (R140): the nine stages over the current capture. Every outcome is a completed step. -/
def execDecode (s : State) : Host.Outcome State Fault Refusal := .next (decodeLength s)

end Sys2Proof.Machine
end

