-- ==== Sys2Proof/Machine/Operands.lean ====
section
/-!
DEFINITION. Operand assembly (30_encoding.md R64 to R68): the value of each raw field of a request word.
-/
namespace Sys2Proof.Machine

/-- `address = trunc_12(ADDR_IN)`: the upper 4 bits are dropped without error or flag (R66). -/
def addressOperand (addrIn : Half) : Address := addrIn.extractLsb' 0 12

/-- `command = trunc_8(CMD_IN)`: the upper 8 bits are dropped without error or flag (R67). -/
def commandOperand (cmdIn : Half) : Byte := cmdIn.extractLsb' 0 8

/-- `repeatCount = sext(REPEAT)`, a signed integer in -128 .. 127 (R65). -/
def repeatOperand (rep : Byte) : Int := rep.toInt

/-- `VENDOR` is used whole (R68). -/
def vendorOperand (vendor : Half) : Half := vendor

end Sys2Proof.Machine
end

