-- ==== Sys2Proof/Machine/FrameEncoder.lean ====
section
/-!
DEFINITION. The frame encoder (41_encoder.md): EncodeFrame, and the meanings of ENCODE and of the five
vendor-fixed wrappers.
-/
namespace Sys2Proof.Machine

/-- G1: the low four address bits over the parity nibble (30_encoding.md R71). -/
def groupG1 (v : Half) (addr : Address) : Byte :=
  ((addr &&& 0xF).setWidth 8 <<< 4) ||| (vendorParity v).setWidth 8

/-- G2: the upper eight address bits (30_encoding.md R72). -/
def groupG2 (addr : Address) : Byte := ((addr >>> 4) &&& 0xFF).setWidth 8

/-- G4, the frame parity of G1, G2 and G3, where G3 is the command (30_encoding.md R73). -/
def groupG4 (v : Half) (addr : Address) (cmd : Byte) : Byte :=
  frameParity (groupG1 v addr) (groupG2 addr) cmd

/-- `WORD0 = {G2, G1, G0}` (30_encoding.md R74). -/
def txWord0 (v : Half) (addr : Address) : TxWord :=
  v.setWidth 32 ||| ((groupG1 v addr).setWidth 32 <<< 16) ||| ((groupG2 addr).setWidth 32 <<< 24)

/-- `WORD1 = {0x0000, G4, G3}` (30_encoding.md R74). -/
def txWord1 (v : Half) (addr : Address) (cmd : Byte) : TxWord :=
  cmd.setWidth 32 ||| ((groupG4 v addr cmd).setWidth 32 <<< 8)

/-- The one event of an encode (R125). -/
def emitEvent (a : Nat) (v : Half) (addr : Address) (cmd : Byte) (rep : Int) : Event :=
  .emit a Config.proto (txWord0 v addr) (txWord1 v addr cmd) 48 rep

/-- The register set an encode leaves (R121). -/
def encodeResult (v : Half) (addr : Address) (cmd : Byte) : RespSet :=
  { RespSet.empty with
    status := some .ok
    vendor := some v
    addr := some addr
    cmd := some cmd
    vpar := some (vendorParity v)
    word0 := some (txWord0 v addr)
    word1 := some (txWord1 v addr cmd) }

/-- The encode every entry point shares (R121, R129): operands masked, one `Emit`, the register set replaced. -/
def encodeWith (v addrIn cmdIn : Half) (rep : Byte) (s : State) : State :=
  let addr := addressOperand addrIn
  let cmd := commandOperand cmdIn
  (s.record [emitEvent s.requester v addr cmd (repeatOperand rep)]).complete (encodeResult v addr cmd)

/-- ENCODE (R121). -/
def execEncode (vendor addrIn cmdIn : Half) (rep : Byte) (s : State) : Host.Outcome State Fault Refusal :=
  .next (encodeWith (vendorOperand vendor) addrIn cmdIn rep s)

/-- ENCODE_PANASONIC (R130). -/
def execEncodePanasonic (addrIn cmdIn : Half) (rep : Byte) (s : State) : Host.Outcome State Fault Refusal :=
  .next (encodeWith panasonicCode addrIn cmdIn rep s)

/-- ENCODE_DENON (R131). -/
def execEncodeDenon (addrIn cmdIn : Half) (rep : Byte) (s : State) : Host.Outcome State Fault Refusal :=
  .next (encodeWith denonCode addrIn cmdIn rep s)

/-- ENCODE_MITSUBISHI (R132). -/
def execEncodeMitsubishi (addrIn cmdIn : Half) (rep : Byte) (s : State) : Host.Outcome State Fault Refusal :=
  .next (encodeWith mitsubishiCode addrIn cmdIn rep s)

/-- ENCODE_SHARP (R133). -/
def execEncodeSharp (addrIn cmdIn : Half) (rep : Byte) (s : State) : Host.Outcome State Fault Refusal :=
  .next (encodeWith sharpCode addrIn cmdIn rep s)

/-- ENCODE_JVC (R134). -/
def execEncodeJvc (addrIn cmdIn : Half) (rep : Byte) (s : State) : Host.Outcome State Fault Refusal :=
  .next (encodeWith jvcCode addrIn cmdIn rep s)

end Sys2Proof.Machine
end

