-- ==== Sys2Proof/Machine/Utility.lean ====
section
/-!
DEFINITION. The two operations that expose the shared functions (40_vendor_parity.md R110, R111). Neither has an
external side effect, so neither records an event (20_memory.md R49).
-/
namespace Sys2Proof.Machine

/-- The register set VPARITY leaves (R110). -/
def vparityResult (v : Half) : RespSet :=
  { RespSet.empty with
    status := some .ok
    vendor := some v
    vpar := some (vendorParity v) }

/-- The register set CLASSIFY leaves (R111). -/
def classifyResult (v : Half) : RespSet :=
  { RespSet.empty with
    status := some .ok
    vendor := some v
    variant := some (classify v).1
    xtra := some (hasExtraInfo (classify v).2)
    extra := (classify v).2 }

/-- VPARITY (R110). -/
def execVparity (vendor : Half) (s : State) : Host.Outcome State Fault Refusal :=
  .next (s.complete (vparityResult (vendorOperand vendor)))

/-- CLASSIFY (R111). -/
def execClassify (vendor : Half) (s : State) : Host.Outcome State Fault Refusal :=
  .next (s.complete (classifyResult (vendorOperand vendor)))

end Sys2Proof.Machine
end

