-- ==== Sys2Proof/Machine/Dispatch.lean ====
section
/-! DEFINITION. One arm per operation: each calls the operation's meaning. -/

namespace Sys2Proof.Machine

def exec (i : Instr) (s : State) : Host.Outcome State Fault Refusal :=
  match i with
  | .encode v a c r => Sys2Proof.Machine.execEncode v a c r s
  | .encodePanasonic a c r => Sys2Proof.Machine.execEncodePanasonic a c r s
  | .encodeDenon a c r => Sys2Proof.Machine.execEncodeDenon a c r s
  | .encodeMitsubishi a c r => Sys2Proof.Machine.execEncodeMitsubishi a c r s
  | .encodeSharp a c r => Sys2Proof.Machine.execEncodeSharp a c r s
  | .encodeJvc a c r => Sys2Proof.Machine.execEncodeJvc a c r s
  | .decode => Sys2Proof.Machine.execDecode s
  | .vparity v => Sys2Proof.Machine.execVparity v s
  | .classify v => Sys2Proof.Machine.execClassify v s

end Sys2Proof.Machine
end

