-- ==== Sys2Proof/Machine/Requests.lean ====
section
/-!
DEFINITION. How one input is served in one step (20_memory.md R44, 60_exceptions.md R177): a request is decoded and
performed or refused, a field is read, the host resets. Step.lean only calls `serveNext`.
-/
namespace Sys2Proof.Machine

/-- The refusal of a request word that names no operation (60_exceptions.md R176). -/
def refuseRequest (a : Nat) (req : Req) (s : State) : DecodeError → Host.Outcome State Fault Refusal
  | .reservedBits _ => .refused (.reservedBits a req s.refuse)
  | .reservedOp _ => .refused (.reservedOperation a req s.refuse)

/-- Requester `a`'s request goes into service: the operation sees its requester and the oracle's answers. -/
def State.accept (s : State) (a : Nat) (cap : Capture) : State := { s with requester := a, capture := cap }

/-- Serve a request word (30_encoding.md R63). -/
def serveRequest (a : Nat) (req : Req) (cap : Capture) (s : State) : Host.Outcome State Fault Refusal :=
  match decodeReq req with
  | .ok i => exec i (s.accept a cap)
  | .error e => refuseRequest a req s e

/-- What a requester does is served only if the requester exists (60_exceptions.md R183; log 9) and the run still
has a meaning (10_state.md R33; log 6). -/
def forRequester (a : Nat) (s : State) (act : Host.Outcome State Fault Refusal) :
    Host.Outcome State Fault Refusal :=
  if s.refused then .refused .afterRefusal
  else if a < Config.numRequesters then act
  else .refused (.noSuchRequester a)

/-- Serve one input. -/
def serveInput (i : Input) (s : State) : Host.Outcome State Fault Refusal :=
  match i with
  | .request a req cap => forRequester a s (serveRequest a req cap s)
  | .read a f => forRequester a s (s.readField a f)
  | .reset => .next s.hostReset

/-- Serve the oldest input; with none the block stays as it is (10_state.md R21; log 2). -/
def serveNext (s : State) : Host.Outcome State Fault Refusal :=
  match s.inputs with
  | [] => .next s
  | i :: rest => serveInput i { s with inputs := rest }

/-- The state in which requester 0, which always exists, issues `req` next, with the oracle's answers the state
holds, in a run that has a meaning (log 17). -/
def State.withRequest (s : State) (req : Req) : State :=
  { s with inputs := .request 0 req s.capture :: s.inputs, refused := false }

end Sys2Proof.Machine
end

