-- ==== Sys2Proof/Machine/Step.lean ====
section
/-! DEFINITION. One step of the block, and the placing of a request word for the next step. -/

namespace Sys2Proof.Machine

/-- One step: the oldest input is served whole (20_memory.md R44). -/
def step (s : State) : Host.Outcome State Fault Refusal := serveNext s

/-- The request word whose low `nbits` bits are `w` is what the next step performs (log 17). -/
def State.withFetchWord (s : State) (nbits w : Nat) : State := s.withRequest (tableReq nbits w)

end Sys2Proof.Machine
end

