-- ==== Sys2Proof/Machine/Assembler.lean ====
section
/-!
DEFINITION. The assembler's syntax for requests (30_encoding.md R78): the request word of a line, and the reading of
a line's characters. Where R78 is silent on spelling, log 16 says what is read.
-/
namespace Sys2Proof.Machine

/-- A number that fits a 16-bit field, in that field. -/
def halfField (n : Int) : Half := BitVec.ofInt 16 n

/-- A repeat count in its 8-bit two's-complement field. -/
def repeatField (n : Int) : Byte := BitVec.ofInt 8 n

/-- Each operand in its field (R78); there are no pseudo-instructions, so each form is one operation (R79). -/
def asmInstr : AsmLine → Instr
  | .encode v a c r => .encode (halfField v) (halfField a) (halfField c) (repeatField r)
  | .encodePanasonic a c r => .encodePanasonic (halfField a) (halfField c) (repeatField r)
  | .encodeDenon a c r => .encodeDenon (halfField a) (halfField c) (repeatField r)
  | .encodeMitsubishi a c r => .encodeMitsubishi (halfField a) (halfField c) (repeatField r)
  | .encodeSharp a c r => .encodeSharp (halfField a) (halfField c) (repeatField r)
  | .encodeJvc a c r => .encodeJvc (halfField a) (halfField c) (repeatField r)
  | .decode => .decode
  | .vparity v => .vparity (halfField v)
  | .classify v => .classify (halfField v)

/-- "An assembler rejects a value that does not fit. It does not mask it" (R78). -/
def assemble (l : AsmLine) : Except AsmError Req :=
  if l.wellFormed then .ok (encodeReq (asmInstr l)) else .error .outOfRange

/-- A space or a tab (log 16). -/
def isBlank (c : Char) : Bool := c == ' ' || c == '\t'

/-- The characters before the first `;`, which starts a comment. -/
def dropComment : List Char → List Char
  | [] => []
  | c :: cs => if c == ';' then [] else c :: dropComment cs

/-- The characters without the blanks around them. -/
def trimBlanks (cs : List Char) : List Char := ((cs.dropWhile isBlank).reverse.dropWhile isBlank).reverse

/-- The pieces between commas; always at least one. -/
def splitCommas : List Char → List (List Char)
  | [] => [[]]
  | c :: cs =>
    match splitCommas cs with
    | [] => [[c]]
    | p :: ps => if c == ',' then [] :: p :: ps else (c :: p) :: ps

/-- The value of a digit in a base of at most 16. -/
def digitValue (base : Nat) (c : Char) : Option Nat :=
  let n := c.toNat
  let d : Option Nat :=
    if 48 ≤ n && n ≤ 57 then some (n - 48)
    else if 97 ≤ n && n ≤ 102 then some (n - 87)
    else if 65 ≤ n && n ≤ 70 then some (n - 55)
    else none
  d.bind fun v => if v < base then some v else none

/-- The number the digits write, after those already read. -/
def readDigits (base : Nat) : Nat → List Char → Option Nat
  | acc, [] => some acc
  | acc, c :: cs =>
    match digitValue base c with
    | some d => readDigits base (acc * base + d) cs
    | none => none

/-- "Numbers are decimal or `0x` hexadecimal" (R78). -/
def readNat : List Char → Option Nat
  | [] => none
  | '0' :: 'x' :: d :: ds => readDigits 16 0 (d :: ds)
  | cs => readDigits 10 0 cs

/-- A number with an optional minus sign, as the `-1` of 95_test_vectors.md EV5. -/
def readInt : List Char → Except AsmError Int
  | '-' :: cs =>
    match readNat cs with
    | some n => .ok (-(n : Int))
    | none => .error .badNumber
  | cs =>
    match readNat cs with
    | some n => .ok n
    | none => .error .badNumber

/-- The operands of a line, in their order. -/
def readOperands : List (List Char) → Except AsmError (List Int)
  | [] => .ok []
  | p :: ps =>
    match readInt (trimBlanks p), readOperands ps with
    | .ok n, .ok ns => .ok (n :: ns)
    | .error e, _ => .error e
    | _, .error e => .error e

/-- A form with the operands `address, command, repeat`. -/
def fixedForm (form : Int → Int → Int → AsmLine) : List Int → Except AsmError AsmLine
  | [a, c, r] => .ok (form a c r)
  | _ => .error .operandCount

/-- A form with the operand `vendor`. -/
def vendorForm (form : Int → AsmLine) : List Int → Except AsmError AsmLine
  | [v] => .ok (form v)
  | _ => .error .operandCount

/-- The nine forms (R78). -/
def readForm (mnemonic : List Char) (ops : List Int) : Except AsmError AsmLine :=
  if mnemonic = "ENCODE".toList then
    match ops with
    | [v, a, c, r] => .ok (.encode v a c r)
    | _ => .error .operandCount
  else if mnemonic = "ENCODE_PANASONIC".toList then fixedForm .encodePanasonic ops
  else if mnemonic = "ENCODE_DENON".toList then fixedForm .encodeDenon ops
  else if mnemonic = "ENCODE_MITSUBISHI".toList then fixedForm .encodeMitsubishi ops
  else if mnemonic = "ENCODE_SHARP".toList then fixedForm .encodeSharp ops
  else if mnemonic = "ENCODE_JVC".toList then fixedForm .encodeJvc ops
  else if mnemonic = "DECODE".toList then (if ops.isEmpty then .ok .decode else .error .operandCount)
  else if mnemonic = "VPARITY".toList then vendorForm .vparity ops
  else if mnemonic = "CLASSIFY".toList then vendorForm .classify ops
  else .error .unknownMnemonic

/-- A line of text: nothing where it is blank or a comment, else its one request (R78). -/
def readLine (text : List Char) : Except AsmError (Option AsmLine) :=
  let body := trimBlanks (dropComment text)
  let mnemonic := body.takeWhile (fun c => !isBlank c)
  let rest := trimBlanks (body.dropWhile (fun c => !isBlank c))
  if body.isEmpty then .ok none
  else
    match readOperands (if rest.isEmpty then [] else splitCommas rest) with
    | .error e => .error e
    | .ok ops => (readForm mnemonic ops).map some

/-- The request word of a line of text, if it holds a request. -/
def assembleText (text : List Char) : Except AsmError (Option Req) :=
  match readLine text with
  | .error e => .error e
  | .ok none => .ok none
  | .ok (some l) => (assemble l).map some

end Sys2Proof.Machine
end

