-- ==== Sys2Proof/Machine/Bus.lean ====
section
/-!
DEFINITION. The block behind a platform's bus (20_memory.md R50, R53): where a memory-mapped wrapper places a
register, and a request word or a response field as bytes. Inside the block every value is a whole unsigned integer
(R53), so no step reads any of this.
-/
namespace Sys2Proof

/-- The width of a bus register: the request word's 64 bits (30_encoding.md R60), or the response field's. -/
def BusRegister.width : BusRegister → Nat
  | .request => 64
  | .response f => f.width

/-- How many bytes hold a bus register. The bits above the width are 0 (DESIGN CHOICE,
log 15). -/
def BusRegister.bytes (r : BusRegister) : Nat := (r.width + 7) / 8

namespace Machine

/-- Where a platform places requester `a`'s register (20_memory.md R50). -/
def busAddress (base : Base) (a : Nat) (r : BusRegister) : Nat := base.address + base.offset a r

/-- The bytes of a request word or of a response field in a byte order (20_memory.md R53). A register of at most 8
bits is one byte, which has no order. -/
def registerBytes (order : ByteOrder) (r : BusRegister) (v : BitVec r.width) : List Byte :=
  orderBytes order (valueBytes r.bytes v.toNat)

/-- The value that bytes in a byte order hold, where they are as many as the register takes; the bits above its
width are dropped (DESIGN CHOICE, log 15). -/
def bytesRegister (order : ByteOrder) (r : BusRegister) (bs : List Byte) :
    Option (BitVec r.width) :=
  if bs.length = r.bytes then some (BitVec.ofNat _ (bytesValue (orderBytes order bs))) else none

/-- The operation that the bytes of a request on the platform's bus name. -/
def busRequest (bs : List Byte) : Except BusError Instr := decodeBytes Config.busByteOrder bs

/-- The bytes the platform's bus carries for a field of RSP[a], where the field holds a value (R29). -/
def State.busField (s : State) (a : Nat) (f : Field) : Option (List Byte) :=
  ((s.rspOf a).get f).map (registerBytes Config.busByteOrder (.response f))

/-- Where the platform places requester `a`'s register. -/
def platformAddress (a : Nat) (r : BusRegister) : Nat := busAddress Config.base a r

end Machine
end Sys2Proof
end

