-- ==== Sys2Proof/Machine/Wire.lean ====
section
/-!
DEFINITION. The frame on the wire and in a capture (20_memory.md R41 to R43; 30_encoding.md R70, R76, R77;
41_encoder.md R128, R135): what the emitter sends, where its bits stand in a capture, and the ideal channel. No step
reads any of this; claims about emissions and round trips are stated with it.
-/
namespace Sys2Proof.Machine

/-- The 48-bit frame value `F = {G4, G3, G2, G1, G0}` (30_encoding.md R70). -/
def frameValue (v : Half) (addr : Address) (cmd : Byte) : Frame :=
  v.setWidth 48 ||| ((groupG1 v addr).setWidth 48 <<< 16) ||| ((groupG2 addr).setWidth 48 <<< 24) |||
    (cmd.setWidth 48 <<< 32) ||| ((groupG4 v addr cmd).setWidth 48 <<< 40)

/-- The bits of a value, least significant first. -/
def bitsLsbFirst {n : Nat} (v : BitVec n) : List Bool := (List.range n).map v.getLsbD

/-- The wire order (20_memory.md R41): G0 to G4, each least significant bit first. -/
def wireBits (v : Half) (addr : Address) (cmd : Byte) : List Bool :=
  bitsLsbFirst v ++ bitsLsbFirst (groupG1 v addr) ++ bitsLsbFirst (groupG2 addr) ++ bitsLsbFirst cmd ++
    bitsLsbFirst (groupG4 v addr cmd)

/-- What the emitter sends once: `bitCount` bits LSB-first from the word buffer (20_memory.md R42, R128). -/
def emittedBits (word0 word1 : TxWord) (bitCount : Nat) : List Bool :=
  (bitsLsbFirst word0 ++ bitsLsbFirst word1).take bitCount

/-- The parts of a capture of one frame (30_encoding.md R76). -/
inductive Sample where
  | leadingGap
  | headerMark
  | headerSpace
  | mark (k : Nat)
  | space (k : Nat)
  | stopMark
  deriving DecidableEq, Repr

/-- What stands at a sample index (30_encoding.md R76); nothing stands at or above index 100. -/
def sampleAt (i : Nat) : Option Sample :=
  if i = 0 then some .leadingGap
  else if i = 1 then some .headerMark
  else if i = 2 then some .headerSpace
  else if i < 3 + 2 * 48 then
    (if (i - 3) % 2 = 0 then some (.mark ((i - 3) / 2)) else some (.space ((i - 3) / 2)))
  else if i = 99 then some .stopMark
  else none

/-- The mark and the space that carry one data bit (30_encoding.md R77). -/
def bitDurations (p : Proto) (bit : Bool) : Nat × Nat :=
  (p.bitMark, if bit then p.oneSpace else p.zeroSpace)

/-- The ideal channel's answers for a frame (41_encoder.md R135); `rp` is left free. -/
def idealCapture (f : Frame) (rp : Bool) : Capture where
  len := 100
  header := true
  vendorBits := some (f.extractLsb' 0 16)
  restBits := some (f.extractLsb' 16 32)
  repeatOk := rp

end Sys2Proof.Machine
end

