-- ==== Sys2Proof/Safety.lean ====
section
/-!
DEFINITION. What claims about the block are stated with: what an assembler line fills, the frame of an operation, the
fields it writes, the bit fields of an emitted frame, the register sets an operation can leave, and the invariant of
the state.
-/
namespace Sys2Proof.Machine

/-- What every completed operation leaves as it was: every other requester's register set (10_state.md R30),
REFUSED, and the model's own fields. The operation's own register set and HIST are said apart. -/
structure State.Frame (s t : State) : Prop where
  others : ∀ b, b ≠ s.requester → t.rspOf b = s.rspOf b
  refused : t.refused = s.refused
  inputs : t.inputs = s.inputs
  requester : t.requester = s.requester
  capture : t.capture = s.capture
  readPort : t.readPort = s.readPort

/-- A read may deliver a value: the field holds one (70_reset_and_hazards.md R193). -/
def State.readable (s : State) (a : Nat) (f : Field) : Bool := ((s.rspOf a).get f).isSome

/-- The requesters' inputs are served: REFUSED is 0 and the requester exists. -/
def State.serves (s : State) (a : Nat) : Prop := s.refused = false ∧ a < Config.numRequesters

/-- What a step that reads the field `f` of RSP[a] does where the field holds `x`: it delivers the value and changes
nothing else (20_memory.md R49), or, where `x` is `none`, it is a fault (10_state.md R29). -/
def State.ReadsAs (s : State) (a : Nat) (f : Field) (x : Option (BitVec f.width)) : Prop :=
  ∀ rest, s.inputs = .read a f :: rest →
    (∀ v, x = some v → step s = .next { s with inputs := rest, readPort := some ⟨a, f, v⟩ }) ∧
    (x = none → step s = .fault (.readUnwritten a f))

/-- The fields a completed operation writes (10_state.md R28). `ok` says that a DECODE succeeded and `unknown` that
the vendor code is in no entry of VENDOR_TABLE. -/
def writesField (ok unknown : Bool) : Instr → Field → Bool
  | .decode, .status => true
  | .decode, .extra => ok && unknown
  | .decode, .vpar | .decode, .word0 | .decode, .word1 => false
  | .decode, _ => ok
  | .vparity _, .status | .vparity _, .vendor | .vparity _, .vpar => true
  | .vparity _, _ => false
  | .classify _, .status | .classify _, .vendor | .classify _, .variant | .classify _, .xtra => true
  | .classify _, .extra => unknown
  | .classify _, _ => false
  | _, .status | _, .vendor | _, .addr | _, .cmd | _, .vpar | _, .word0 | _, .word1 => true
  | _, _ => false

/-- The REPEAT field of ENCODE and of the five wrappers (10_state.md R28's ENCODE*); the other operations have none. -/
def repeatField? : Instr → Option Byte
  | .encode _ _ _ r | .encodePanasonic _ _ r | .encodeDenon _ _ r | .encodeMitsubishi _ _ r
  | .encodeSharp _ _ r | .encodeJvc _ _ r => some r
  | .decode | .vparity _ | .classify _ => none

/-- The event is an `Emit`. -/
def Event.isEmit : Event → Bool
  | .emit _ _ _ _ _ _ => true
  | _ => false

/-- Two transmission words hold the frame of `v`, `addr` and `cmd`, bit field by bit field
(30_encoding.md R70 to R74). -/
structure CarriesFrame (v : Half) (addr : Address) (cmd : Byte) (w0 w1 : TxWord) : Prop where
  g0 : w0.extractLsb' 0 16 = v
  parity : w0.extractLsb' 16 4 = vendorParity v
  addrLow : w0.extractLsb' 20 4 = addr.extractLsb' 0 4
  addrHigh : w0.extractLsb' 24 8 = addr.extractLsb' 4 8
  g3 : w1.extractLsb' 0 8 = cmd
  g4 : w1.extractLsb' 8 8 = w0.extractLsb' 16 8 ^^^ w0.extractLsb' 24 8 ^^^ cmd
  unsent : w1.extractLsb' 16 16 = 0

/-- The outcome of an encode of the fields `addrIn`, `cmdIn`, `rep` with the vendor code `v`, whose parity nibble is
`vp` (41_encoder.md R121): a next state, one `Emit` appended to HIST, the register set replaced, all else kept. -/
def EncodesFrame (v : Half) (vp : Nibble) (addrIn cmdIn : Half) (rep : Byte) (s : State)
    (o : Host.Outcome State Fault Refusal) : Prop :=
  ∃ t w0 w1, o = .next t ∧
    t.hist = s.hist ++ [.emit s.requester Config.proto w0 w1 48 rep.toInt] ∧
    t.rspOf s.requester =
      { status := some .ok, vendor := some v, addr := some (addrIn.extractLsb' 0 12),
        cmd := some (cmdIn.extractLsb' 0 8), vpar := some vp, word0 := some w0, word1 := some w1 } ∧
    CarriesFrame v (addrIn.extractLsb' 0 12) (cmdIn.extractLsb' 0 8) w0 w1 ∧ s.Frame t

/-- The outcome of a DECODE that ends with a structural failure (60_exceptions.md R170): a next state, the queries
made so far appended to HIST, STATUS alone in the register set, all else kept. -/
def FailsWith (st : Status) (queries : List Event) (s : State) (o : Host.Outcome State Fault Refusal) : Prop :=
  ∃ t, o = .next t ∧ t.hist = s.hist ++ queries ∧
    t.rspOf s.requester = { RespSet.empty with status := some st } ∧ s.Frame t

/-- The line is assembled iff `fits` (30_encoding.md R78): if so, into the word of `i`, with `op` in OP, 0 in RSVD
and the four numbers, each unchanged, in VENDOR, ADDR_IN, CMD_IN and REPEAT (R60); if not, it is rejected. -/
def AssemblesIff (fits : Prop) (l : AsmLine) (i : Instr) (op : Nibble) (vendor address command rep : Int) :
    Prop :=
  (fits → ∃ w : Req, assemble l = .ok w ∧ decodeReq w = .ok i ∧
    w.extractLsb' 0 4 = op ∧ w.extractLsb' 4 4 = 0#4 ∧ (w.extractLsb' 8 8).toInt = rep ∧
    ((w.extractLsb' 16 16).toNat : Int) = vendor ∧ ((w.extractLsb' 32 16).toNat : Int) = address ∧
    ((w.extractLsb' 48 16).toNat : Int) = command) ∧
  (¬ fits → assemble l = .error .outOfRange)

/-- A request at the head of the inputs, to be served: the instruction `i` of requester `a`. -/
def State.pends (s : State) (a : Nat) (w : Req) (cap : Capture) (rest : List Input) : Prop :=
  s.inputs = .request a w cap :: rest ∧ s.serves a

/-- A register set that some one completed operation leaves, with every field it writes and no other
(10_state.md R28, R30). -/
inductive RespSet.IsResult : RespSet → Prop where
  /-- ENCODE or a wrapper: the words carry the frame of the fields (41_encoder.md R121). -/
  | encoded (v : Half) (addr : Address) (cmd : Byte) (w0 w1 : TxWord) (h : CarriesFrame v addr cmd w0 w1) :
      IsResult { status := some .ok, vendor := some v, addr := some addr, cmd := some cmd,
                 vpar := some (vendorParity v), word0 := some w0, word1 := some w1 }
  /-- A successful DECODE, whose parity and repeat flags are free of the other fields (42_decoder.md R151). -/
  | decoded (v : Half) (addr : Address) (cmd : Byte) (vpf fpf rpt : Bool) :
      IsResult { status := some .ok, variant := some (classify v).1, vendor := some v, addr := some addr,
                 cmd := some cmd, nbits := some 48, vpf := some vpf, fpf := some fpf, rpt := some rpt,
                 xtra := some ((classify v).1 == .generic),
                 extra := if (classify v).1 = .generic then some v else none }
  /-- A failed DECODE: STATUS alone (60_exceptions.md R170). -/
  | failed (st : Status) (h : st ≠ .ok) : IsResult { status := some st }
  /-- VPARITY (40_vendor_parity.md R110). -/
  | parity (v : Half) :
      IsResult { status := some .ok, vendor := some v, vpar := some (vendorParity v) }
  /-- CLASSIFY (40_vendor_parity.md R111). -/
  | classified (v : Half) :
      IsResult { status := some .ok, variant := some (classify v).1, vendor := some v,
                 xtra := some ((classify v).1 == .generic),
                 extra := if (classify v).1 = .generic then some v else none }

/-- After this query its DECODE makes another one (42_decoder.md R153). -/
def Event.asksOn : Event → Bool
  | .qLen _ n => n == 100
  | .qHeader _ _ ok => ok
  | .qBits _ _ _ _ result => result.isSome
  | .emit _ _ _ _ _ _ | .qRepeat _ _ _ | .reset => false

/-- The event may stand right after `prev`: a later query follows the passed query of the stage before it, of the
same requester, and nothing else comes between the queries of one DECODE (42_decoder.md R153). -/
def mayFollow (prev : Option Event) : Event → Bool
  | .qHeader a _ _ =>
    match prev with
    | some (.qLen b n) => a == b && n == 100
    | _ => false
  | .qBits a _ count offset _ =>
    match prev with
    | some (.qHeader b _ ok) => a == b && ok && count == 16 && offset == 3
    | some (.qBits b _ count' offset' result) =>
      a == b && count' == 16 && offset' == 3 && result.isSome && count == 32 && offset == 35
    | _ => false
  | .qRepeat a _ _ =>
    match prev with
    | some (.qBits b _ count offset result) => a == b && count == 32 && offset == 35 && result.isSome
    | _ => false
  | .emit _ _ _ _ _ _ | .qLen _ _ | .reset => !prev.any Event.asksOn

/-- Every DECODE in a history made its queries in order and to its end. -/
def queriesInOrder : Option Event → List Event → Bool
  | prev, [] => !prev.any Event.asksOn
  | prev, e :: es => mayFollow prev e && queriesInOrder (some e) es

/-- An event is one a requester of the block can cause: PROTO is handed on unchanged, an `Emit` carries 48 bits
whose two parities hold, and a repeat count of 8 bits (41_encoder.md R125). -/
def Event.valid : Event → Prop
  | .emit a p w0 w1 n rep =>
    a < Config.numRequesters ∧ p = Config.proto ∧ n = 48 ∧ -128 ≤ rep ∧ rep ≤ 127 ∧
      ∃ addr, CarriesFrame (w0.extractLsb' 0 16) addr (w1.extractLsb' 0 8) w0 w1
  | .qLen a _ => a < Config.numRequesters
  | .qHeader a p _ => a < Config.numRequesters ∧ p = Config.proto
  | .qBits a p _ _ _ => a < Config.numRequesters ∧ p = Config.proto
  | .qRepeat a d _ => a < Config.numRequesters ∧ d = Config.proto.repeatPeriod
  | .reset => True

/-- The invariant of the block's state. -/
structure State.Inv (s : State) : Prop where
  /-- The register sets are in canonical form (log 10). -/
  canonical : rspWf s.rsp = true
  /-- Only existing requesters own one (60_exceptions.md R183). -/
  owners : ∀ e ∈ s.rsp, e.1 < Config.numRequesters
  /-- Each is what exactly one operation leaves (10_state.md R30). -/
  results : ∀ e ∈ s.rsp, e.2.IsResult
  /-- Every DECODE's queries stand in order (42_decoder.md R153). -/
  ordered : queriesInOrder none s.hist = true
  /-- Every event is one the block can cause. -/
  events : ∀ e ∈ s.hist, e.valid

end Sys2Proof.Machine
end

