-- ==== Sys2Proof/Certificates/Slice0/Obligations.lean ====
section
/-!
DEFINITION. The statements for the provers, file by file of spec/. Each docstring names the rule it formalises, or
says what it is derived from.
-/
open Sys2Proof Sys2Proof.Machine

/-! ## Encodings (30_encoding.md) -/

/-- Decoding an encoded operation gives it back, every operand at every value (derived from R60, R61). -/
def Obligations.DecodeOfEncode : Prop :=
  ∀ i : Instr, decodeReq (encodeReq i) = .ok i

/-- R63: "every word with `RSVD = 0` and `OP` in 0x1 to 0x9 names exactly one operation", every other word none. -/
def Obligations.WordsThatNameAnOperation : Prop :=
  ∀ w : Req, (∃ i, decodeReq w = .ok i) ↔
    w.extractLsb' 4 4 = 0 ∧ 1 ≤ (w.extractLsb' 0 4).toNat ∧ (w.extractLsb' 0 4).toNat ≤ 9

/-- The operation each OP selects, and the places (R60) of the fields it reads: no other field of the word reaches the
operation (derived from R61's table; that an unlisted field has no effect on any state is
`UnlistedFieldsAreIgnored`). -/
def Obligations.OpSelectsOperation : Prop :=
  ∀ w : Req, w.extractLsb' 4 4 = 0 →
    let rep : Byte := w.extractLsb' 8 8
    let vendor : Half := w.extractLsb' 16 16
    let addrIn : Half := w.extractLsb' 32 16
    let cmdIn : Half := w.extractLsb' 48 16
    (w.extractLsb' 0 4 = 0x1 → decodeReq w = .ok (.encode vendor addrIn cmdIn rep)) ∧
    (w.extractLsb' 0 4 = 0x2 → decodeReq w = .ok (.encodePanasonic addrIn cmdIn rep)) ∧
    (w.extractLsb' 0 4 = 0x3 → decodeReq w = .ok (.encodeDenon addrIn cmdIn rep)) ∧
    (w.extractLsb' 0 4 = 0x4 → decodeReq w = .ok (.encodeMitsubishi addrIn cmdIn rep)) ∧
    (w.extractLsb' 0 4 = 0x5 → decodeReq w = .ok (.encodeSharp addrIn cmdIn rep)) ∧
    (w.extractLsb' 0 4 = 0x6 → decodeReq w = .ok (.encodeJvc addrIn cmdIn rep)) ∧
    (w.extractLsb' 0 4 = 0x7 → decodeReq w = .ok .decode) ∧
    (w.extractLsb' 0 4 = 0x8 → decodeReq w = .ok (.vparity vendor)) ∧
    (w.extractLsb' 0 4 = 0x9 → decodeReq w = .ok (.classify vendor)) ∧
    ((w.extractLsb' 0 4).toNat = 0 ∨ 10 ≤ (w.extractLsb' 0 4).toNat →
      decodeReq w = .error (.reservedOp (w.extractLsb' 0 4)))

/-- R61: "An operand field the table does not list for an operation is ignored": two accepted words that agree on
OP and on the listed fields are served alike in every state. -/
def Obligations.UnlistedFieldsAreIgnored : Prop :=
  ∀ (w w' : Req) (a : Nat) (cap : Capture) (s : State),
    w.extractLsb' 4 4 = 0 → w.extractLsb' 0 8 = w'.extractLsb' 0 8 →
    let op := (w.extractLsb' 0 4).toNat
    let sameEncode := w.extractLsb' 8 8 = w'.extractLsb' 8 8 ∧
      w.extractLsb' 32 16 = w'.extractLsb' 32 16 ∧ w.extractLsb' 48 16 = w'.extractLsb' 48 16
    (2 ≤ op ∧ op ≤ 6 ∧ sameEncode) ∨ op = 7 ∨
      ((op = 8 ∨ op = 9) ∧ w.extractLsb' 16 16 = w'.extractLsb' 16 16) →
    serveRequest a w cap s = serveRequest a w' cap s

/-- R80, and the requests of 95_test_vectors.md: a few words and the operations they stand for. -/
def Obligations.WorkedWordsDecode : Prop :=
  decodeReq 0x0076003420020001 = .ok (.encode 0x2002 0x0034 0x0076 0x00) ∧
  decodeReq 0x0076003400000002 = .ok (.encodePanasonic 0x0034 0x0076 0x00) ∧
  decodeReq 0x01ABF1235AAAFF01 = .ok (.encode 0x5AAA 0xF123 0x01AB 0xFF) ∧
  decodeReq 0x0000000000000007 = .ok .decode ∧
  decodeReq 0x00000000CB230008 = .ok (.vparity 0xCB23) ∧
  decodeReq 0x0000000012340009 = .ok (.classify 0x1234)

/-- R66, R67, 41_encoder.md R127: the dropped bits of ADDR_IN and CMD_IN leave no trace: two encodes whose fields
agree on the kept bits have the same outcome in every state, and that outcome is a next state. -/
def Obligations.MaskedBitsLeaveNoTrace : Prop :=
  ∀ (v a c a' c' : Half) (r : Byte) (s : State),
    a &&& 0xFFF = a' &&& 0xFFF → c &&& 0xFF = c' &&& 0xFF →
    ∃ t, exec (.encode v a c r) s = .next t ∧ exec (.encode v a' c' r) s = .next t ∧
      (t.rspOf s.requester).addr = some ((a &&& 0xFFF).setWidth 12) ∧
      (t.rspOf s.requester).cmd = some ((c &&& 0xFF).setWidth 8)

/-- A request word and its bytes on a bus say the same, in either byte order (derived from 20_memory.md R53; that
there are these two orders is the model's choice, log 15). -/
def Obligations.BusBytesDecodeAsTheirWord : Prop :=
  ∀ (order : ByteOrder) (w : Req),
    (reqBytes order w).length = 8 ∧
    decodeBytes order (reqBytes order w) = (decodeReq w).mapError BusError.word

/-- R78, form by form: which numbers fit, the field each operand goes to, 0 in the fields the form does not use, and
that a line with a number that does not fit is rejected, not masked (derived: the spelling of a line is
`AssemblerForms`). -/
def Obligations.AssembledLineDecodesToItsOperation : Prop :=
  ∀ v a c r : Int,
    let half (n : Int) : Prop := 0 ≤ n ∧ n ≤ 65535
    let fixed : Prop := half a ∧ half c ∧ -128 ≤ r ∧ r ≤ 127
    let inHalf (n : Int) : Half := BitVec.ofInt 16 n
    let inRepeat : Byte := BitVec.ofInt 8 r
    AssemblesIff (half v ∧ fixed) (.encode v a c r)
      (.encode (inHalf v) (inHalf a) (inHalf c) inRepeat) 0x1 v a c r ∧
    AssemblesIff fixed (.encodePanasonic a c r) (.encodePanasonic (inHalf a) (inHalf c) inRepeat) 0x2 0 a c r ∧
    AssemblesIff fixed (.encodeDenon a c r) (.encodeDenon (inHalf a) (inHalf c) inRepeat) 0x3 0 a c r ∧
    AssemblesIff fixed (.encodeMitsubishi a c r) (.encodeMitsubishi (inHalf a) (inHalf c) inRepeat) 0x4 0 a c r ∧
    AssemblesIff fixed (.encodeSharp a c r) (.encodeSharp (inHalf a) (inHalf c) inRepeat) 0x5 0 a c r ∧
    AssemblesIff fixed (.encodeJvc a c r) (.encodeJvc (inHalf a) (inHalf c) inRepeat) 0x6 0 a c r ∧
    AssemblesIff True .decode .decode 0x7 0 0 0 0 ∧
    AssemblesIff (half v) (.vparity v) (.vparity (inHalf v)) 0x8 v 0 0 0 ∧
    AssemblesIff (half v) (.classify v) (.classify (inHalf v)) 0x9 v 0 0 0

/-- The forms of R78: each mnemonic with its operands in their order, for any numbers, and no other count of operands
(derived from R78; that no other spelling of a mnemonic is read, lower case for one, is the model's choice, log 16). -/
def Obligations.AssemblerForms : Prop :=
  ∀ (m : List Char) (ops : List Int) (l : AsmLine), readForm m ops = .ok l ↔
    (∃ v a c r, m = "ENCODE".toList ∧ ops = [v, a, c, r] ∧ l = .encode v a c r) ∨
    (∃ a c r, m = "ENCODE_PANASONIC".toList ∧ ops = [a, c, r] ∧ l = .encodePanasonic a c r) ∨
    (∃ a c r, m = "ENCODE_DENON".toList ∧ ops = [a, c, r] ∧ l = .encodeDenon a c r) ∨
    (∃ a c r, m = "ENCODE_MITSUBISHI".toList ∧ ops = [a, c, r] ∧ l = .encodeMitsubishi a c r) ∨
    (∃ a c r, m = "ENCODE_SHARP".toList ∧ ops = [a, c, r] ∧ l = .encodeSharp a c r) ∨
    (∃ a c r, m = "ENCODE_JVC".toList ∧ ops = [a, c, r] ∧ l = .encodeJvc a c r) ∨
    (m = "DECODE".toList ∧ ops = [] ∧ l = .decode) ∨
    (∃ v, m = "VPARITY".toList ∧ ops = [v] ∧ l = .vparity v) ∨
    (∃ v, m = "CLASSIFY".toList ∧ ops = [v] ∧ l = .classify v)

/-- The bytes of the request word and of every response field (20_memory.md R53, in either byte order): how many there
are, which bits each holds, that they give the value back, and that a field of at most 8 bits is one byte in both
orders (that there are these two orders, and the padding to whole bytes, are the model's choice, log 15). -/
def Obligations.BusBytesOfARegister : Prop :=
  ∀ (order : ByteOrder) (r : BusRegister) (v : BitVec r.width),
    let bs := registerBytes order r v
    bs.length = (r.width + 7) / 8 ∧ bytesRegister order r bs = some v ∧
    (∀ i, i < bs.length →
      bs[i]? = some (v.extractLsb' (8 * (if order = .lowFirst then i else bs.length - 1 - i)) 8)) ∧
    (r.width ≤ 8 → bs = [v.setWidth 8]) ∧
    (∀ w : Req, registerBytes order .request w = reqBytes order w)

/-- R76: what stands at each sample index of a capture, and that the two chunks start at the marks of wire bits 0
and 16. -/
def Obligations.CaptureLayout : Prop :=
  sampleAt 0 = some .leadingGap ∧ sampleAt 1 = some .headerMark ∧ sampleAt 2 = some .headerSpace ∧
  (∀ k, k < 48 → sampleAt (3 + 2 * k) = some (.mark k) ∧ sampleAt (4 + 2 * k) = some (.space k)) ∧
  sampleAt 99 = some .stopMark ∧ (∀ i, (sampleAt i).isSome = true ↔ i < expectedLength) ∧
  expectedLength = 100 ∧ sampleAt vendorOffset = some (.mark 0) ∧ sampleAt restOffset = some (.mark 16)

/-! ## Parity and classifier (40_vendor_parity.md) -/

/-- VendorParity is the XOR of the four nibbles (derived: R101 marks it so). -/
def Obligations.VendorParityIsNibbleXor : Prop :=
  ∀ v : Half, vendorParity v =
    v.extractLsb' 12 4 ^^^ v.extractLsb' 8 4 ^^^ v.extractLsb' 4 4 ^^^ v.extractLsb' 0 4

/-- Flipping bit `i` of a vendor code flips exactly bit `i mod 4` of the nibble, and flipping two bits of one residue
leaves it unchanged (derived: R102 marks it so). -/
def Obligations.VendorParityBitFlip : Prop :=
  (∀ (v : Half) (i : Nat), i < 16 →
    vendorParity (v ^^^ (1#16 <<< i)) = vendorParity v ^^^ (1#4 <<< (i % 4))) ∧
  (∀ (v : Half) (i j : Nat), i < 16 → j < 16 → i % 4 = j % 4 →
    vendorParity (v ^^^ (1#16 <<< i) ^^^ (1#16 <<< j)) = vendorParity v)

/-- Flipping any one bit of G1, G2 or G3 flips the same bit of FrameParity (derived: R105 marks it so). -/
def Obligations.FrameParityBitFlip : Prop :=
  ∀ (g1 g2 g3 : Byte) (i : Nat), i < 8 →
    frameParity (g1 ^^^ (1#8 <<< i)) g2 g3 = frameParity g1 g2 g3 ^^^ (1#8 <<< i) ∧
    frameParity g1 (g2 ^^^ (1#8 <<< i)) g3 = frameParity g1 g2 g3 ^^^ (1#8 <<< i) ∧
    frameParity g1 g2 (g3 ^^^ (1#8 <<< i)) = frameParity g1 g2 g3 ^^^ (1#8 <<< i)

/-- R108: the six variants, their codes, and that no other code is ever read. -/
def Obligations.VariantCodes : Prop :=
  Variant.generic.code = 0 ∧ Variant.panasonic.code = 1 ∧ Variant.denon.code = 2 ∧
  Variant.mitsubishi.code = 3 ∧ Variant.sharp.code = 4 ∧ Variant.jvc.code = 5 ∧
  ∀ (r : RespSet) (c : BitVec 3), r.get .variant = some c → c.toNat ≤ 5

/-- R110 with R100: the word with OP 0x8 and RSVD 0 is VPARITY of its bits 31 to 16, and VPARITY completes with
STATUS, VENDOR and VPAR, and records no event. -/
def Obligations.VparityCompletes : Prop :=
  (∀ w : Req, w.extractLsb' 0 8 = 0x08 → decodeReq w = .ok (.vparity (w.extractLsb' 16 16))) ∧
  ∀ (v : Half) (s : State), ∃ t, exec (.vparity v) s = .next t ∧ t.hist = s.hist ∧
    t.rspOf s.requester =
      { status := some .ok, vendor := some v,
        vpar := some (let b : Byte := v.extractLsb' 8 8 ^^^ v.extractLsb' 0 8
                      (b ^^^ (b >>> 4)).extractLsb' 0 4) } ∧
    s.Frame t

/-- R111 with R107 and R109: the word with OP 0x9 and RSVD 0 is CLASSIFY of its bits 31 to 16, and it completes with
STATUS, VENDOR, VARIANT and XTRA, with EXTRA for Generic alone, and records no event. -/
def Obligations.ClassifyCompletes : Prop :=
  (∀ w : Req, w.extractLsb' 0 8 = 0x09 → decodeReq w = .ok (.classify (w.extractLsb' 16 16))) ∧
  ∀ (v : Half) (s : State), ∃ t, exec (.classify v) s = .next t ∧ t.hist = s.hist ∧
    (let known (var : Variant) : RespSet :=
      { status := some .ok, vendor := some v, variant := some var, xtra := some false }
     t.rspOf s.requester =
      if v = 0x2002 then known .panasonic
      else if v = 0x3254 then known .denon
      else if v = 0xCB23 then known .mitsubishi
      else if v = 0x5AAA then known .sharp
      else if v = 0x0103 then known .jvc
      else { status := some .ok, vendor := some v, variant := some .generic, xtra := some true,
             extra := some v }) ∧
    s.Frame t

/-! ## Encoder (41_encoder.md) -/

/-- R121, R126: the word with OP 0x1 and RSVD 0 is ENCODE of its fields, and ENCODE completes, whatever they are: one
`Emit` with the words of its frame, 48 bits and the sign-extended repeat count (30_encoding.md R65); the register set
replaced; nothing else changed. -/
def Obligations.EncodeCompletes : Prop :=
  (∀ w : Req, w.extractLsb' 0 8 = 0x01 → decodeReq w = .ok (.encode (w.extractLsb' 16 16)
    (w.extractLsb' 32 16) (w.extractLsb' 48 16) (w.extractLsb' 8 8))) ∧
  ∀ (v a c : Half) (r : Byte) (s : State),
    EncodesFrame v (vendorParity v) a c r s (exec (.encode v a c r) s)

/-- R130 to R134: the word with OP 0x2 to 0x6 and RSVD 0 is the wrapper, and each wrapper completes as an encode with
its vendor code, whose parity nibble the rule gives. -/
def Obligations.WrappersComplete : Prop :=
  (∀ w : Req,
    let a : Half := w.extractLsb' 32 16
    let c : Half := w.extractLsb' 48 16
    let r : Byte := w.extractLsb' 8 8
    (w.extractLsb' 0 8 = 0x02 → decodeReq w = .ok (.encodePanasonic a c r)) ∧
    (w.extractLsb' 0 8 = 0x03 → decodeReq w = .ok (.encodeDenon a c r)) ∧
    (w.extractLsb' 0 8 = 0x04 → decodeReq w = .ok (.encodeMitsubishi a c r)) ∧
    (w.extractLsb' 0 8 = 0x05 → decodeReq w = .ok (.encodeSharp a c r)) ∧
    (w.extractLsb' 0 8 = 0x06 → decodeReq w = .ok (.encodeJvc a c r))) ∧
  ∀ (a c : Half) (r : Byte) (s : State),
    EncodesFrame 0x2002 0x0 a c r s (exec (.encodePanasonic a c r) s) ∧
    EncodesFrame 0x3254 0x0 a c r s (exec (.encodeDenon a c r) s) ∧
    EncodesFrame 0xCB23 0x6 a c r s (exec (.encodeMitsubishi a c r) s) ∧
    EncodesFrame 0x5AAA 0xF a c r s (exec (.encodeSharp a c r) s) ∧
    EncodesFrame 0x0103 0x2 a c r s (exec (.encodeJvc a c r) s)

/-- R129: "Each vendor-fixed wrapper behaves exactly as ENCODE, with `REQ[31:16]` replaced by its fixed vendor
code": whatever the word's `REQ[31:16]`, it is served as the ENCODE word that holds the code. -/
def Obligations.WrapperIsEncodeWithFixedVendor : Prop :=
  ∀ (anyVendor a c : Half) (r : Byte) (q : Nat) (cap : Capture) (s : State),
    let asEncode (code : Half) := serveRequest q (packReq 0x1 r code a c) cap s
    serveRequest q (packReq 0x2 r anyVendor a c) cap s = asEncode 0x2002 ∧
    serveRequest q (packReq 0x3 r anyVendor a c) cap s = asEncode 0x3254 ∧
    serveRequest q (packReq 0x4 r anyVendor a c) cap s = asEncode 0xCB23 ∧
    serveRequest q (packReq 0x5 r anyVendor a c) cap s = asEncode 0x5AAA ∧
    serveRequest q (packReq 0x6 r anyVendor a c) cap s = asEncode 0x0103

/-- R125: every ENCODE and every wrapper appends exactly one event, the `Emit` of its words, 48 bits, PROTO and
the repeat count unchanged, whatever that count is; no other operation appends an `Emit`. -/
def Obligations.OnlyEncodesEmitAndExactlyOnce : Prop :=
  ∀ (i : Instr) (s : State), ∃ t es, exec i s = .next t ∧ t.hist = s.hist ++ es ∧
    (∀ r, repeatField? i = some r → ∃ w0 w1, es = [.emit s.requester Config.proto w0 w1 48 r.toInt] ∧
      (t.rspOf s.requester).word0 = some w0 ∧ (t.rspOf s.requester).word1 = some w1) ∧
    (repeatField? i = none → ∀ e ∈ es, e.isEmit = false)

/-- The bits the emitter sends for an ENCODE are G0 to G4 in turn, each least significant bit first, which is the
frame value from bit 0 up (derived from 20_memory.md R41, R42 and R124). -/
def Obligations.EmittedBitsAreTheFrame : Prop :=
  ∀ (v a c : Half) (r : Byte) (s : State), ∃ t w0 w1, exec (.encode v a c r) s = .next t ∧
    t.hist = s.hist ++ [.emit s.requester Config.proto w0 w1 48 r.toInt] ∧
    emittedBits w0 w1 48 = wireBits v (a.setWidth 12) (c.setWidth 8) ∧
    emittedBits w0 w1 48 = bitsLsbFirst (frameValue v (a.setWidth 12) (c.setWidth 8))

/-- Encoding, then decoding the emitted frame over the ideal channel, gives the address, the command, the vendor
code and its variant back, with both parity flags clear (derived: R136 marks it so). -/
def Obligations.RoundTrip : Prop :=
  ∀ (v a c : Half) (r : Byte) (rp : Bool) (s : State),
    ∃ t w0 w1 u, exec (.encode v a c r) s = .next t ∧
      (t.rspOf s.requester).word0 = some w0 ∧ (t.rspOf s.requester).word1 = some w1 ∧
      exec .decode { t with capture := idealCapture (w0.setWidth 48 ||| (w1.setWidth 48 <<< 32)) rp } =
        .next u ∧
      u.rspOf s.requester =
        { status := some .ok, variant := some (classify v).1, vendor := some v,
          addr := some (a.setWidth 12), cmd := some (c.setWidth 8), nbits := some 48,
          vpf := some false, fpf := some false, rpt := some rp,
          xtra := some ((classify v).1 == .generic),
          extra := if (classify v).1 = .generic then some v else none }

/-! ## Decoder (42_decoder.md) -/

/-- R141: any length other than 100 ends the decode with LengthMismatch, no result and no other query. -/
def Obligations.DecodeLengthMismatch : Prop :=
  ∀ s : State, s.capture.len ≠ 100 →
    FailsWith .lengthMismatch [.qLen s.requester s.capture.len] s (exec .decode s)

/-- R142: a capture of the right length with a false header answer ends the decode with HeaderMismatch. -/
def Obligations.DecodeHeaderMismatch : Prop :=
  ∀ s : State, s.capture.len = 100 → s.capture.header = false →
    FailsWith .headerMismatch [.qLen s.requester 100, .qHeader s.requester Config.proto false] s
      (exec .decode s)

/-- R143: the vendor chunk is 16 bits from sample 3; no answer ends the decode with BitDecodeFailure. -/
def Obligations.DecodeVendorChunkFailure : Prop :=
  ∀ s : State, s.capture.len = 100 → s.capture.header = true → s.capture.vendorBits = none →
    FailsWith .bitDecodeFailure
      [.qLen s.requester 100, .qHeader s.requester Config.proto true,
        .qBits s.requester Config.proto 16 3 none] s (exec .decode s)

/-- R146: the remainder chunk is 32 bits from sample 35; no answer ends the decode with BitDecodeFailure, and the
variant is written nowhere. -/
def Obligations.DecodeRemainderFailure : Prop :=
  ∀ (s : State) (v : Half), s.capture.len = 100 → s.capture.header = true →
    s.capture.vendorBits = some v → s.capture.restBits = none →
    FailsWith .bitDecodeFailure
      [.qLen s.requester 100, .qHeader s.requester Config.proto true,
        .qBits s.requester Config.proto 16 3 (some v), .qBits s.requester Config.proto 32 35 none] s
      (exec .decode s)

/-- R147, R148, R150, R151: a DECODE whose structural checks pass succeeds with the unpacked fields and the flags,
and has made the five queries. -/
def Obligations.DecodeSucceeds : Prop :=
  ∀ (s : State) (v : Half) (r : TxWord), s.capture.len = 100 → s.capture.header = true →
    s.capture.vendorBits = some v → s.capture.restBits = some r →
    ∃ t, exec .decode s = .next t ∧
      t.hist = s.hist ++
        [.qLen s.requester 100, .qHeader s.requester Config.proto true,
          .qBits s.requester Config.proto 16 3 (some v), .qBits s.requester Config.proto 32 35 (some r),
          .qRepeat s.requester Config.proto.repeatPeriod s.capture.repeatOk] ∧
      t.rspOf s.requester =
        { status := some .ok, variant := some (classify v).1, vendor := some v,
          addr := some (r.extractLsb' 4 12), cmd := some (r.extractLsb' 16 8), nbits := some 48,
          vpf := some (r.extractLsb' 0 4 != vendorParity v),
          fpf := some (r.extractLsb' 24 8 !=
            r.extractLsb' 0 8 ^^^ r.extractLsb' 8 8 ^^^ r.extractLsb' 16 8),
          rpt := some s.capture.repeatOk,
          xtra := some ((classify v).1 == .generic),
          extra := if (classify v).1 = .generic then some v else none } ∧
      s.Frame t

/-- R149: the parity flags never change the rest: two captures that differ only in the received parity nibble and
the received frame parity give results that differ only in VPF and FPF. -/
def Obligations.ParityFlagsChangeNothingElse : Prop :=
  ∀ (s : State) (c : Capture) (r r' : TxWord), c.restBits = some r →
    r.extractLsb' 4 20 = r'.extractLsb' 4 20 →
    ∃ t t', exec .decode { s with capture := c } = .next t ∧
      exec .decode { s with capture := { c with restBits := some r' } } = .next t' ∧
      { t.rspOf s.requester with vpf := none, fpf := none } =
        { t'.rspOf s.requester with vpf := none, fpf := none }

/-- R150: the repeat answer "is informational only and never affects success/failure": it changes RPT alone. -/
def Obligations.RepeatAnswerIsInformational : Prop :=
  ∀ (s : State) (c : Capture) (rp : Bool),
    ∃ t t', exec .decode { s with capture := c } = .next t ∧
      exec .decode { s with capture := { c with repeatOk := rp } } = .next t' ∧
      { t.rspOf s.requester with rpt := none } = { t'.rspOf s.requester with rpt := none } ∧
      ((t'.rspOf s.requester).status = some .ok → (t'.rspOf s.requester).rpt = some rp)

/-- A single flipped bit `k` of an encoded frame, every structural check passing: the decode succeeds, VPF is set
for bits 0 to 19 and FPF for bits 16 to 47, the fields are the flipped frame's, and a table code becomes Generic
(derived: R152 marks it so). -/
def Obligations.SingleBitErrorFlags : Prop :=
  ∀ (s : State) (v : Half) (addr : Address) (cmd : Byte) (k : Nat) (rp : Bool), k < 48 →
    let f' : Frame := frameValue v addr cmd ^^^ (1#48 <<< k)
    ∃ t, exec .decode { s with capture := idealCapture f' rp } = .next t ∧
      (t.rspOf s.requester).status = some .ok ∧
      (t.rspOf s.requester).vpf = some (decide (k < 20)) ∧
      (t.rspOf s.requester).fpf = some (decide (16 ≤ k)) ∧
      (t.rspOf s.requester).vendor = some (f'.extractLsb' 0 16) ∧
      (t.rspOf s.requester).addr = some (f'.extractLsb' 20 12) ∧
      (t.rspOf s.requester).cmd = some (f'.extractLsb' 32 8) ∧
      (k < 16 → (classify v).1 ≠ .generic → (t.rspOf s.requester).variant = some .generic)

/-- A DECODE appends one to five events, a prefix of the five queries in their order; five iff it succeeded
(derived: R153 marks it so). -/
def Obligations.QueriesInOrder : Prop :=
  ∀ s : State, ∃ t es, exec .decode s = .next t ∧ t.hist = s.hist ++ es ∧ 1 ≤ es.length ∧
    es <+: [.qLen s.requester s.capture.len, .qHeader s.requester Config.proto s.capture.header,
      .qBits s.requester Config.proto 16 3 s.capture.vendorBits,
      .qBits s.requester Config.proto 32 35 s.capture.restBits,
      .qRepeat s.requester Config.proto.repeatPeriod s.capture.repeatOk] ∧
    (es.length = 5 ↔ (t.rspOf s.requester).status = some .ok)

/-- A failed DECODE leaves no trace in a later one: the later DECODE's register set is the one it leaves without the
failed one before it (derived from R154). -/
def Obligations.FailedDecodeLeavesNoTraceInTheNext : Prop :=
  ∀ (s : State) (c c' : Capture), ∃ t u u',
    exec .decode { s with capture := c } = .next t ∧
    exec .decode { t with capture := c' } = .next u ∧
    exec .decode { s with capture := c' } = .next u' ∧ u.rsp = u'.rsp

/-! ## Failures, refusals, requesters (60_exceptions.md, 20_memory.md, 10_state.md) -/

/-- 60_exceptions.md R174 with R171's codes: the earliest failing stage decides STATUS, no later stage is queried,
and a parity flag is reported with STATUS 0 alone. -/
def Obligations.EarliestFailureDecides : Prop :=
  ∀ s : State, ∃ t, exec .decode s = .next t ∧
    (t.rspOf s.requester).get .status = some
      (if s.capture.len ≠ 100 then 1#4
       else if s.capture.header = false then 2#4
       else if s.capture.vendorBits = none then 3#4
       else if s.capture.restBits = none then 3#4
       else 0#4) ∧
    t.hist.length = s.hist.length +
      (if s.capture.len ≠ 100 then 1
       else if s.capture.header = false then 2
       else if s.capture.vendorBits = none then 3
       else if s.capture.restBits = none then 4
       else 5) ∧
    ((t.rspOf s.requester).vpf.isSome = true ∨ (t.rspOf s.requester).fpf.isSome = true →
      (t.rspOf s.requester).status = some .ok)

/-- 60_exceptions.md R170, R172: a structural failure ends the DECODE at once: the queries up to the failing stage's
own, and no later one, stand in HIST after the events recorded before; STATUS holds the failure's code, every other
field is `none` (so that STATUS alone can be read), and nothing else changes. -/
def Obligations.FailedDecodeGivesNoResult : Prop :=
  ∀ s : State, ¬ (s.capture.len = 100 ∧ s.capture.header = true ∧ s.capture.vendorBits.isSome = true ∧
      s.capture.restBits.isSome = true) →
    ∃ t, exec .decode s = .next t ∧
      (t.rspOf s.requester).status = some
        (if s.capture.len ≠ 100 then .lengthMismatch
         else if s.capture.header = false then .headerMismatch else .bitDecodeFailure) ∧
      (∀ f, t.readable s.requester f = decide (f = .status)) ∧
      t.hist = s.hist ++
        (if s.capture.len ≠ 100 then [.qLen s.requester s.capture.len]
         else if s.capture.header = false then
          [.qLen s.requester 100, .qHeader s.requester Config.proto false]
         else if s.capture.vendorBits = none then
          [.qLen s.requester 100, .qHeader s.requester Config.proto true,
            .qBits s.requester Config.proto 16 3 none]
         else
          [.qLen s.requester 100, .qHeader s.requester Config.proto true,
            .qBits s.requester Config.proto 16 3 s.capture.vendorBits,
            .qBits s.requester Config.proto 32 35 none]) ∧
      s.Frame t

/-- 60_exceptions.md R176, 30_encoding.md R62, R63: a word with `RSVD != 0`, or with another OP than 0x1 to 0x9, is
refused; the state it leaves has REFUSED set and is otherwise as before: RSP and HIST are unchanged. Every other
word names exactly one operation, which is performed. -/
def Obligations.ReservedWordsAreRefused : Prop :=
  ∀ (s : State) (a : Nat) (w : Req) (cap : Capture) (rest : List Input), s.pends a w cap rest →
    (w.extractLsb' 4 4 ≠ 0 →
      step s = .refused (.reservedBits a w { s with inputs := rest, refused := true })) ∧
    (w.extractLsb' 4 4 = 0 → ((w.extractLsb' 0 4).toNat = 0 ∨ 10 ≤ (w.extractLsb' 0 4).toNat) →
      step s = .refused (.reservedOperation a w { s with inputs := rest, refused := true })) ∧
    (w.extractLsb' 4 4 = 0 → 1 ≤ (w.extractLsb' 0 4).toNat → (w.extractLsb' 0 4).toNat ≤ 9 →
      ∃ i t, decodeReq w = .ok i ∧ step s = .next t ∧
        exec i { s with inputs := rest, requester := a, capture := cap } = .next t)

/-- 10_state.md R33: no step and no operation clears REFUSED, "not even" a reset; none sets it but a refused
request, which sets it. -/
def Obligations.RefusedIsSticky : Prop :=
  (∀ s t : State, step s = .next t → t.refused = s.refused) ∧
  (∀ (s : State) (rest : List Input), s.inputs = .reset :: rest →
    ∃ t, step s = .next t ∧ t.refused = s.refused) ∧
  (∀ (s u : State) (a : Nat) (w : Req), step s = .refused (.reservedBits a w u) ∨
    step s = .refused (.reservedOperation a w u) → u.refused = true)

/-- In a run whose REFUSED is 1 no request and no read is served (the model's reading of 10_state.md R33, log 6). -/
def Obligations.NoServiceAfterARefusal : Prop :=
  ∀ (s : State) (a : Nat) (w : Req) (cap : Capture) (f : Field) (rest : List Input), s.refused = true →
    (s.inputs = .request a w cap :: rest ∨ s.inputs = .read a f :: rest) → step s = .refused .afterRefusal

/-- A requester at or above NUM_REQUESTERS does not exist, and nothing is served for it (the model's choice, log 9,
on 60_exceptions.md R183). -/
def Obligations.NoServiceForAbsentRequester : Prop :=
  ∀ (s : State) (a : Nat) (w : Req) (cap : Capture) (f : Field) (rest : List Input), s.refused = false →
    Config.numRequesters ≤ a → (s.inputs = .request a w cap :: rest ∨ s.inputs = .read a f :: rest) →
    step s = .refused (.noSuchRequester a)

/-- 10_state.md R30: every operation completes, replaces its requester's register set (the fields of R28's table
and no others hold a value), and leaves every other requester's set, REFUSED and all else alone. -/
def Obligations.CompletedOperationReplacesTheSet : Prop :=
  ∀ (i : Instr) (s : State), ∃ t, exec i s = .next t ∧ s.Frame t ∧
    ∀ f, t.readable s.requester f =
      writesField ((t.rspOf s.requester).status == some .ok)
        ((t.rspOf s.requester).vendor.any fun v => (classify v).1 == .generic) i f

/-- 20_memory.md R45, 10_state.md R22, 60_exceptions.md R181: the register set an operation writes depends on its
request word and, for DECODE, the oracle's answers, and on no other part of the state, its requester's id among them;
the events it records depend on these and on the id they are tagged with. -/
def Obligations.ResultDependsOnRequestAndOracleAlone : Prop :=
  ∀ (i : Instr) (s s' : State), (i = .decode → s.capture = s'.capture) →
    ∃ t t' es es', exec i s = .next t ∧ exec i s' = .next t' ∧
      t.rspOf s.requester = t'.rspOf s'.requester ∧
      t.hist = s.hist ++ es ∧ t'.hist = s'.hist ++ es' ∧ (s.requester = s'.requester → es = es')

/-- Two requests of different requesters, in either order, leave the same register sets and the same REFUSED; only
the order of the events in HIST changes (derived: 20_memory.md R45 marks it so). -/
def Obligations.InterleavingReordersOnlyHistory : Prop :=
  ∀ (s : State) (a b : Nat) (i j : Instr) (ca cb : Capture), a ≠ b →
    ∃ t u t' u', exec i (s.accept a ca) = .next t ∧ exec j (t.accept b cb) = .next u ∧
      exec j (s.accept b cb) = .next t' ∧ exec i (t'.accept a ca) = .next u' ∧
      (∀ q, u.rspOf q = u'.rspOf q) ∧ u.refused = u'.refused ∧ u.hist.Perm u'.hist

/-- 20_memory.md R49: two identical encodes emit twice: the second appends the same event again and leaves the same
register set. -/
def Obligations.EncodingTwiceEmitsTwice : Prop :=
  ∀ (i : Instr) (s : State), (repeatField? i).isSome = true →
    ∃ t u e, exec i s = .next t ∧ exec i t = .next u ∧ e.isEmit = true ∧
      u.hist = s.hist ++ [e, e] ∧ u.rspOf s.requester = t.rspOf s.requester

/-- 10_state.md R29: reading a response field that holds `none` is a fault, and no value is given. -/
def Obligations.ReadingAnUnwrittenFieldFaults : Prop :=
  ∀ (s : State) (a : Nat) (f : Field) (rest : List Input), s.inputs = .read a f :: rest → s.serves a →
    ((s.rspOf a).get f = none ↔ step s = .fault (.readUnwritten a f))

/-- 20_memory.md R49: a read of a field that holds a value delivers it whole and changes nothing else, whatever input
waits after it; a second read delivers the same value (the delivering port is the model's own field, log 7). -/
def Obligations.ReadingHasNoSideEffect : Prop :=
  ∀ (s : State) (a : Nat) (f : Field) (v : BitVec f.width) (rest : List Input),
    s.inputs = .read a f :: rest → s.serves a → (s.rspOf a).get f = some v →
    step s = .next { s with inputs := rest, readPort := some ⟨a, f, v⟩ } ∧
    ∀ rest', rest = .read a f :: rest' →
      Host.Core.run Sys2Proof.core 2 s = .next { s with inputs := rest', readPort := some ⟨a, f, v⟩ }

/-- Field by field, a read delivers the field of its name at the width of 10_state.md R28, STATUS by the codes of
60_exceptions.md R171, VARIANT by those of 40_vendor_parity.md R108 and a flag as one bit; it faults where that field
holds `none` (derived; the list of inputs and the delivering port are the model's own, logs 1 and 7). -/
def Obligations.EachFieldReadsAsItsOwnValue : Prop :=
  ∀ (s : State) (a : Nat), s.serves a →
    let r := s.rspOf a
    let flag (b : Bool) : BitVec 1 := if b then 1#1 else 0#1
    s.ReadsAs a .status (r.status.map fun st =>
      if st = .ok then 0#4 else if st = .lengthMismatch then 1#4 else if st = .headerMismatch then 2#4
      else 3#4) ∧
    s.ReadsAs a .variant (r.variant.map fun var =>
      if var = .generic then 0#3 else if var = .panasonic then 1#3 else if var = .denon then 2#3
      else if var = .mitsubishi then 3#3 else if var = .sharp then 4#3 else 5#3) ∧
    s.ReadsAs a .vendor (r.vendor : Option (BitVec 16)) ∧
    s.ReadsAs a .addr (r.addr : Option (BitVec 12)) ∧
    s.ReadsAs a .cmd (r.cmd : Option (BitVec 8)) ∧
    s.ReadsAs a .nbits (r.nbits : Option (BitVec 8)) ∧
    s.ReadsAs a .vpf (r.vpf.map flag) ∧ s.ReadsAs a .fpf (r.fpf.map flag) ∧
    s.ReadsAs a .rpt (r.rpt.map flag) ∧ s.ReadsAs a .xtra (r.xtra.map flag) ∧
    s.ReadsAs a .extra (r.extra : Option (BitVec 16)) ∧
    s.ReadsAs a .vpar (r.vpar : Option (BitVec 4)) ∧
    s.ReadsAs a .word0 (r.word0 : Option (BitVec 32)) ∧
    s.ReadsAs a .word1 (r.word1 : Option (BitVec 32))

/-- A requester that reads a field in the step after its request completed sees that request's value, and faults if
the request did not write it (derived from 20_memory.md R46 and 70_reset_and_hazards.md R193, R196; the list of
inputs and the delivering port are the model's own fields, logs 1 and 7). -/
def Obligations.ResultsAreReadableInTheNextStep : Prop :=
  ∀ (s : State) (a : Nat) (w : Req) (i : Instr) (cap : Capture) (f : Field) (rest : List Input),
    s.pends a w cap (.read a f :: rest) → decodeReq w = .ok i →
    ∃ t u, step s = .next t ∧
      exec i { s with requester := a, capture := cap } = .next u ∧ t.rsp = u.rsp ∧
      (∀ v, (u.rspOf a).get f = some v →
        step t = .next { t with inputs := rest, readPort := some ⟨a, f, v⟩ }) ∧
      ((u.rspOf a).get f = none → step t = .fault (.readUnwritten a f))

/-- The flags VPF, FPF and RPT hold a value after a successful DECODE alone, XTRA after that and after CLASSIFY, and
the packed view FLAGS is defined exactly after a successful DECODE, with VPF in bit 0 (10_state.md R31). -/
def Obligations.FlagsAndTheirPackedView : Prop :=
  (∀ (i : Instr) (s : State), ∃ t, exec i s = .next t ∧
    (let r := t.rspOf s.requester
     let decoded := i = .decode ∧ r.status = some .ok
     (r.vpf.isSome = true ↔ decoded) ∧ (r.fpf.isSome = true ↔ decoded) ∧ (r.rpt.isSome = true ↔ decoded) ∧
     (r.xtra.isSome = true ↔ decoded ∨ ∃ v, i = .classify v) ∧ (r.flags.isSome = true ↔ decoded))) ∧
  (∀ (r : RespSet) (n : Nibble), r.flags = some n →
    r.vpf = some (n.getLsbD 0) ∧ r.fpf = some (n.getLsbD 1) ∧ r.rpt = some (n.getLsbD 2) ∧
      r.xtra = some (n.getLsbD 3))

/-! ## Reset, history, steps (70_reset_and_hazards.md, 10_state.md) -/

/-- 70_reset_and_hazards.md R190 with 10_state.md R35: a reset leaves every field of every register set `none`,
appends one `Reset` to HIST and removes no event, and keeps REFUSED. -/
def Obligations.ResetLeaves : Prop :=
  ∀ (s : State) (rest : List Input), s.inputs = .reset :: rest →
    ∃ t, step s = .next t ∧ (∀ a f, (t.rspOf a).get f = none) ∧ t.hist = s.hist ++ [.reset] ∧
      t.refused = s.refused

/-- A reset step takes its own input and leaves the inputs that wait after it, the latches and the read port as they
are (the model's choice, log 18: the spec says nothing of them). -/
def Obligations.ResetKeepsWaitingInputs : Prop :=
  ∀ (s : State) (rest : List Input), s.inputs = .reset :: rest →
    ∃ t, step s = .next t ∧ t.inputs = rest ∧ t.requester = s.requester ∧ t.capture = s.capture ∧
      t.readPort = s.readPort

/-- First power-on: every field `none`, HIST empty, REFUSED 0 (10_state.md R35; that `State.reset` is the first
power-on is the model's reading, log 4). -/
def Obligations.PowerOnState : Prop :=
  (∀ a f, (State.reset.rspOf a).get f = none) ∧ State.reset.hist = [] ∧ State.reset.refused = false

/-- Nothing removes an event from HIST, in any step (10_state.md R32). -/
def Obligations.HistoryOnlyGrows : Prop :=
  ∀ s t : State, step s = .next t → s.hist <+: t.hist

/-- A step serves the oldest input: a request that decodes to `i` is `i`'s operation on the state in which that
request is in service, all inputs after it still waiting (derived from 20_memory.md R44 and 30_encoding.md R63; the
list of inputs, and the requester and answers latched from it, are the model's choice, logs 1 and 3). -/
def Obligations.StepRunsTheDecodedRequest : Prop :=
  ∀ (s : State) (a : Nat) (w : Req) (cap : Capture) (rest : List Input) (i : Instr),
    s.pends a w cap rest → decodeReq w = .ok i →
    step s = exec i { s with inputs := rest, requester := a, capture := cap }

/-- With no input waiting the block stays as it is (the model's choice, log 2). -/
def Obligations.IdleStepChangesNothing : Prop :=
  ∀ s : State, s.inputs = [] → step s = .next s

/-- The invariant holds at first power-on. -/
def Obligations.InvariantAtPowerOn : Prop := State.reset.Inv

/-- Every step keeps the invariant: register sets in canonical form, owned by existing requesters, each exactly what
one encode, one decode, one failed decode, one VPARITY or one CLASSIFY leaves; a history whose decodes made their
queries in order, and whose emissions carry 48 bits of a frame with both parities right. -/
def Obligations.StepKeepsInvariant : Prop :=
  ∀ s t : State, s.Inv → step s = .next t → t.Inv
end

