-- ==== Sys2Proof/Laws/Encoding.lean ====
section
/-!
SUPPORT. The fields of a packed request word: each is the value that was packed. The bytes of a value.
-/
namespace Sys2Proof
variable (op : Nibble) (rep : Byte) (v a c : Half)

@[simp] theorem reqOp_packReq : reqOp (packReq op rep v a c) = op := by
  ext i hi
  simp (disch := omega) [reqOp, packReq, decide_eq_true]

@[simp] theorem reqRsvd_packReq : reqRsvd (packReq op rep v a c) = 0 := by
  ext i hi
  simp (disch := omega) [reqRsvd, packReq, BitVec.getLsbD_of_ge]
  omega

@[simp] theorem reqRepeat_packReq : reqRepeat (packReq op rep v a c) = rep := by
  ext i hi
  simp (disch := omega) [reqRepeat, packReq, BitVec.getLsbD_of_ge, decide_eq_true]

@[simp] theorem reqVendor_packReq : reqVendor (packReq op rep v a c) = v := by
  ext i hi
  simp (disch := omega) [reqVendor, packReq, BitVec.getLsbD_of_ge, decide_eq_true, decide_eq_false]

@[simp] theorem reqAddrIn_packReq : reqAddrIn (packReq op rep v a c) = a := by
  ext i hi
  simp (disch := omega) [reqAddrIn, packReq, BitVec.getLsbD_of_ge, decide_eq_true, decide_eq_false]

@[simp] theorem reqCmdIn_packReq : reqCmdIn (packReq op rep v a c) = c := by
  ext i hi
  simp (disch := omega) [reqCmdIn, packReq, BitVec.getLsbD_of_ge, decide_eq_false]

/-- The bytes of a value give the value back. -/
theorem bytesValue_valueBytes (n v : Nat) : bytesValue (valueBytes n v) = v % 256 ^ n := by
  induction n generalizing v with
  | zero => simp [valueBytes, bytesValue, Nat.mod_one]
  | succ n ih =>
    have h : v % (256 * 256 ^ n) = v % 256 + 256 * (v / 256 % 256 ^ n) := Nat.mod_mul
    simp [valueBytes, bytesValue, ih, Nat.pow_succ', h]

@[simp] theorem valueBytes_length (n v : Nat) : (valueBytes n v).length = n := by
  induction n generalizing v with
  | zero => rfl
  | succ n ih => simp [valueBytes, ih]

/-- Byte `i` of a value, least significant first. -/
theorem valueBytes_getElem? (n v i : Nat) (h : i < n) :
    (valueBytes n v)[i]? = some (BitVec.ofNat 8 (v / 256 ^ i)) := by
  induction n generalizing v i with
  | zero => omega
  | succ n ih =>
    cases i with
    | zero => simp [valueBytes]
    | succ i => simp [valueBytes, ih _ i (by omega), Nat.div_div_eq_div_mul, Nat.pow_succ']

@[simp] theorem orderBytes_length (order : ByteOrder) (bs : List Byte) :
    (orderBytes order bs).length = bs.length := by
  cases order <;> simp [orderBytes]

/-- Laying bytes out twice gives them back. -/
@[simp] theorem orderBytes_orderBytes (order : ByteOrder) (bs : List Byte) :
    orderBytes order (orderBytes order bs) = bs := by
  cases order <;> simp [orderBytes]

end Sys2Proof
end

