-- ==== Sys2Proof/Laws/State.lean ====
section
/-!
SUPPORT. One lemma per field per update of the state, and the register set of the requester in service after each.
-/
namespace Sys2Proof.Machine
variable (s : State) (es : List Event) (r : RespSet) (st : Status) (a : Nat) (cap : Capture) (w : Req)

@[simp] theorem record_rsp : (s.record es).rsp = s.rsp := rfl
@[simp] theorem record_hist : (s.record es).hist = s.hist ++ es := rfl
@[simp] theorem record_refused : (s.record es).refused = s.refused := rfl
@[simp] theorem record_inputs : (s.record es).inputs = s.inputs := rfl
@[simp] theorem record_requester : (s.record es).requester = s.requester := rfl
@[simp] theorem record_capture : (s.record es).capture = s.capture := rfl
@[simp] theorem record_readPort : (s.record es).readPort = s.readPort := rfl
@[simp] theorem record_rspOf : (s.record es).rspOf a = s.rspOf a := rfl

/-- Recording twice is recording once. -/
@[simp] theorem record_record (es' : List Event) : (s.record es).record es' = s.record (es ++ es') := by
  simp [State.record]

@[simp] theorem complete_rsp : (s.complete r).rsp = writeRsp s.requester r s.rsp := rfl
@[simp] theorem complete_hist : (s.complete r).hist = s.hist := rfl
@[simp] theorem complete_refused : (s.complete r).refused = s.refused := rfl
@[simp] theorem complete_inputs : (s.complete r).inputs = s.inputs := rfl
@[simp] theorem complete_requester : (s.complete r).requester = s.requester := rfl
@[simp] theorem complete_capture : (s.complete r).capture = s.capture := rfl
@[simp] theorem complete_readPort : (s.complete r).readPort = s.readPort := rfl

/-- A structural failure completes the operation with STATUS alone. -/
theorem raise_eq : s.raise st = s.complete (failureResult st) := rfl

@[simp] theorem refuse_rsp : s.refuse.rsp = s.rsp := rfl
@[simp] theorem refuse_hist : s.refuse.hist = s.hist := rfl
@[simp] theorem refuse_refused : s.refuse.refused = true := rfl
@[simp] theorem refuse_inputs : s.refuse.inputs = s.inputs := rfl
@[simp] theorem refuse_requester : s.refuse.requester = s.requester := rfl
@[simp] theorem refuse_capture : s.refuse.capture = s.capture := rfl
@[simp] theorem refuse_readPort : s.refuse.readPort = s.readPort := rfl

@[simp] theorem hostReset_rsp : s.hostReset.rsp = [] := rfl
@[simp] theorem hostReset_hist : s.hostReset.hist = s.hist ++ [.reset] := rfl
@[simp] theorem hostReset_refused : s.hostReset.refused = s.refused := rfl
@[simp] theorem hostReset_inputs : s.hostReset.inputs = s.inputs := rfl
@[simp] theorem hostReset_requester : s.hostReset.requester = s.requester := rfl
@[simp] theorem hostReset_capture : s.hostReset.capture = s.capture := rfl
@[simp] theorem hostReset_readPort : s.hostReset.readPort = s.readPort := rfl

@[simp] theorem accept_rsp : (s.accept a cap).rsp = s.rsp := rfl
@[simp] theorem accept_hist : (s.accept a cap).hist = s.hist := rfl
@[simp] theorem accept_refused : (s.accept a cap).refused = s.refused := rfl
@[simp] theorem accept_inputs : (s.accept a cap).inputs = s.inputs := rfl
@[simp] theorem accept_requester : (s.accept a cap).requester = a := rfl
@[simp] theorem accept_capture : (s.accept a cap).capture = cap := rfl
@[simp] theorem accept_readPort : (s.accept a cap).readPort = s.readPort := rfl
@[simp] theorem accept_rspOf (b : Nat) : (s.accept a cap).rspOf b = s.rspOf b := rfl

@[simp] theorem withRequest_inputs :
    (s.withRequest w).inputs = .request 0 w s.capture :: s.inputs := rfl
@[simp] theorem withRequest_refused : (s.withRequest w).refused = false := rfl
@[simp] theorem withRequest_rsp : (s.withRequest w).rsp = s.rsp := rfl
@[simp] theorem withRequest_hist : (s.withRequest w).hist = s.hist := rfl

end Sys2Proof.Machine
end

