-- ==== Sys2Proof/Laws/RespFile.lean ====
section
/-!
SUPPORT. The register sets as a file: a read after a write, the other requesters, and the canonical form, which
every operation on the file keeps.
-/
namespace Sys2Proof.Machine

@[simp] theorem readRsp_nil (a : Nat) : readRsp a [] = .empty := rfl

/-- A requester reads the set last written for it. -/
theorem readRsp_writeRsp_same (a : Nat) (r : RespSet) (h : r ≠ .empty) (f : RespFile) :
    readRsp a (writeRsp a r f) = r := by
  induction f with
  | nil => simp [writeRsp, rspEntry, h, readRsp]
  | cons e es ih =>
    simp only [writeRsp]
    split
    · simp [rspEntry, h, readRsp]
    · split
      · simp [rspEntry, h, readRsp]
      · simp [readRsp, *]

/-- A write leaves every other requester's set alone. -/
theorem readRsp_writeRsp_other (a b : Nat) (r : RespSet) (h : b ≠ a) (f : RespFile) :
    readRsp b (writeRsp a r f) = readRsp b f := by
  induction f with
  | nil => by_cases hr : r = .empty <;> simp [writeRsp, rspEntry, hr, readRsp, h]
  | cons e es ih =>
    simp only [writeRsp]
    split
    · by_cases hr : r = .empty <;> simp [rspEntry, hr, readRsp, h]
    · split
      · by_cases hr : r = .empty <;> simp_all [rspEntry, readRsp]
      · simp [readRsp, ih]

/-- An entry of a written file is the one written or an old one. -/
theorem mem_writeRsp {a : Nat} {r : RespSet} {f : RespFile} {e : Nat × RespSet}
    (h : e ∈ writeRsp a r f) : e = (a, r) ∨ e ∈ f := by
  induction f with
  | nil => by_cases hr : r = .empty <;> simp_all [writeRsp, rspEntry]
  | cons d ds ih =>
    simp only [writeRsp] at h
    split at h
    · by_cases hr : r = .empty <;> simp_all [rspEntry]
    · split at h
      · by_cases hr : r = .empty <;> simp_all [rspEntry]
        rcases h with h | h <;> simp [h]
      · simp only [List.mem_cons] at h ⊢
        rcases h with h | h
        · exact .inr (.inl h)
        · rcases ih h with h | h
          · exact .inl h
          · exact .inr (.inr h)

/-- A lower bound may be lowered, or dropped. -/
theorem rspWfFrom_weaken {lo hi : Option Nat} {f : RespFile}
    (hle : ∀ n ∈ lo, ∃ m ∈ hi, n ≤ m) (h : rspWfFrom hi f = true) : rspWfFrom lo f = true := by
  cases f with
  | nil => rfl
  | cons e es =>
    simp only [rspWfFrom, Bool.and_eq_true] at h ⊢
    refine ⟨⟨?_, h.1.2⟩, h.2⟩
    cases lo with
    | none => rfl
    | some n =>
      obtain ⟨m, hm, hn⟩ := hle n rfl
      have := h.1.1
      simp_all
      omega

/-- A write above the lower bound keeps the canonical form. -/
theorem rspWfFrom_writeRsp (a : Nat) (r : RespSet) (f : RespFile) :
    ∀ lo, (∀ n ∈ lo, n < a) → rspWfFrom lo f = true → rspWfFrom lo (writeRsp a r f) = true := by
  induction f with
  | nil =>
    intro lo hlo _
    by_cases hr : r = .empty
    · simp [writeRsp, rspEntry, hr, rspWfFrom]
    · cases lo <;> simp_all [writeRsp, rspEntry, rspWfFrom]
  | cons e es ih =>
    intro lo hlo h
    simp only [rspWfFrom, Bool.and_eq_true] at h
    obtain ⟨⟨h1, h2⟩, h3⟩ := h
    simp only [writeRsp]
    split
    · by_cases hr : r = .empty
      · simp [rspEntry, hr, rspWfFrom, h1, h2, h3]
      · cases lo <;> simp_all [rspEntry, rspWfFrom]
    · split
      · next hlt heq =>
        subst heq
        by_cases hr : r = .empty
        · simp only [rspEntry, hr, if_true, List.nil_append]
          refine rspWfFrom_weaken (fun n hn => ⟨e.1, rfl, Nat.le_of_lt (hlo n hn)⟩) h3
        · simp [rspEntry, hr, rspWfFrom, h1, h3]
      · next hlt hne =>
        simp only [rspWfFrom, Bool.and_eq_true]
        refine ⟨⟨h1, h2⟩, ih _ (fun n hn => ?_) h3⟩
        simp only [Option.mem_def, Option.some.injEq] at hn
        omega

/-- Every write keeps the canonical form. -/
theorem rspWf_writeRsp (a : Nat) (r : RespSet) (f : RespFile) (h : rspWf f = true) :
    rspWf (writeRsp a r f) = true :=
  rspWfFrom_writeRsp a r f none (by simp) h

/-- Every operation on the state keeps it: recording, completing, refusing and resetting. -/
theorem rspWf_ops (s : State) (h : rspWf s.rsp = true) :
    (∀ es, rspWf (s.record es).rsp = true) ∧ (∀ r, rspWf (s.complete r).rsp = true) ∧
      rspWf s.refuse.rsp = true ∧ rspWf s.hostReset.rsp = true :=
  ⟨fun _ => h, fun r => rspWf_writeRsp _ r _ h, h, rfl⟩

/-- At first power-on the form holds. -/
theorem rspWf_reset : rspWf State.reset.rsp = true := rfl

/-- The requester in service reads what its operation left. -/
theorem complete_rspOf_same (s : State) (r : RespSet) (h : r ≠ .empty) :
    (s.complete r).rspOf s.requester = r :=
  readRsp_writeRsp_same _ _ h _

/-- Every other requester reads what it read before. -/
theorem complete_rspOf_other (s : State) (r : RespSet) (b : Nat) (h : b ≠ s.requester) :
    (s.complete r).rspOf b = s.rspOf b :=
  readRsp_writeRsp_other _ _ _ h _

end Sys2Proof.Machine
end

