-- ==== Sys2Proof/Laws/Exec.lean ====
section
/-!
SUPPORT. Said once: what each shared operation can do, and that every operation records events that depend on its
requester, its operands and the oracle's answers alone, and then replaces its requester's register set (`exec_eq`).
-/
namespace Sys2Proof.Machine

@[simp] theorem expectedLength_eq : expectedLength = 100 := rfl
@[simp] theorem vendorOffset_eq : vendorOffset = 3 := rfl
@[simp] theorem restOffset_eq : restOffset = 35 := rfl

/-- The queries a DECODE of these answers makes. -/
def decodeEvents (a : Nat) (c : Capture) : List Event :=
  if c.len ≠ 100 then [.qLen a c.len]
  else if c.header = false then [.qLen a c.len, .qHeader a Config.proto c.header]
  else if c.vendorBits = none then
    [.qLen a c.len, .qHeader a Config.proto c.header, .qBits a Config.proto 16 3 c.vendorBits]
  else if c.restBits = none then
    [.qLen a c.len, .qHeader a Config.proto c.header, .qBits a Config.proto 16 3 c.vendorBits,
      .qBits a Config.proto 32 35 c.restBits]
  else
    [.qLen a c.len, .qHeader a Config.proto c.header, .qBits a Config.proto 16 3 c.vendorBits,
      .qBits a Config.proto 32 35 c.restBits, .qRepeat a Config.proto.repeatPeriod c.repeatOk]

/-- The register set a DECODE of these answers leaves. -/
def decodeOutcome (c : Capture) : RespSet :=
  if c.len ≠ 100 then failureResult .lengthMismatch
  else if c.header = false then failureResult .headerMismatch
  else
    match c.vendorBits, c.restBits with
    | some v, some r => decodeResult v r c.repeatOk
    | _, _ => failureResult .bitDecodeFailure

/-- The decoder's stages, one after the other. -/
theorem decodeLength_eq (s : State) :
    decodeLength s = (s.record (decodeEvents s.requester s.capture)).complete (decodeOutcome s.capture) := by
  simp only [decodeLength, decodeHeader, decodeVendor, decodeRest, decodeFinish, raise_eq,
    record_requester, record_capture, record_record, expectedLength_eq, vendorOffset_eq, restOffset_eq,
    decodeEvents, decodeOutcome]
  by_cases hn : s.capture.len = 100
  · cases hh : s.capture.header
    · simp [hn]
    · cases hv : s.capture.vendorBits <;> cases hr : s.capture.restBits <;> simp [hn]
  · simp [hn]

/-- The vendor code an encode uses: the operand, or the wrapper's constant (41_encoder.md R129). -/
def encodeOperands : Instr → Option (Half × Half × Half × Byte)
  | .encode v a c r => some (v, a, c, r)
  | .encodePanasonic a c r => some (panasonicCode, a, c, r)
  | .encodeDenon a c r => some (denonCode, a, c, r)
  | .encodeMitsubishi a c r => some (mitsubishiCode, a, c, r)
  | .encodeSharp a c r => some (sharpCode, a, c, r)
  | .encodeJvc a c r => some (jvcCode, a, c, r)
  | .decode | .vparity _ | .classify _ => none

/-- The events an operation records. -/
def opEvents (i : Instr) (a : Nat) (cap : Capture) : List Event :=
  match encodeOperands i, i with
  | some (v, ai, ci, r), _ => [emitEvent a v (addressOperand ai) (commandOperand ci) (repeatOperand r)]
  | none, .decode => decodeEvents a cap
  | none, _ => []

/-- The register set an operation leaves. -/
def opResult (i : Instr) (cap : Capture) : RespSet :=
  match encodeOperands i, i with
  | some (v, ai, ci, _), _ => encodeResult v (addressOperand ai) (commandOperand ci)
  | none, .decode => decodeOutcome cap
  | none, .vparity v => vparityResult v
  | none, .classify v => classifyResult v
  | none, _ => .empty

/-- Every operation completes, and this is all it does. -/
theorem exec_eq (i : Instr) (s : State) :
    exec i s = .next ((s.record (opEvents i s.requester s.capture)).complete (opResult i s.capture)) := by
  cases i <;> first
    | rfl
    | exact congrArg Host.Outcome.next (decodeLength_eq s)
    | simp [exec, execVparity, execClassify, opEvents, opResult, encodeOperands, State.record,
        State.complete, vendorOperand]

/-- A completed operation writes STATUS, so its register set is not the empty one. -/
theorem opResult_ne_empty (i : Instr) (cap : Capture) : opResult i cap ≠ .empty := by
  have key : (opResult i cap).status.isSome = true := by
    cases i <;> try rfl
    simp only [opResult, encodeOperands, decodeOutcome]
    split
    · rfl
    · split
      · rfl
      · split <;> rfl
  intro h
  rw [h] at key
  exact absurd key (by decide)

/-- What an operation leaves unchanged. -/
theorem exec_frame (i : Instr) (s : State) :
    s.Frame ((s.record (opEvents i s.requester s.capture)).complete (opResult i s.capture)) where
  others b h := complete_rspOf_other _ _ b h
  refused := rfl
  inputs := rfl
  requester := rfl
  capture := rfl
  readPort := rfl

/-- What its requester reads after it. -/
theorem exec_rspOf (i : Instr) (s : State) :
    ((s.record (opEvents i s.requester s.capture)).complete (opResult i s.capture)).rspOf s.requester
      = opResult i s.capture :=
  complete_rspOf_same _ _ (opResult_ne_empty i s.capture)

/-- Every operation completes: its events, what its requester reads after it, and its frame. -/
theorem exec_completes (i : Instr) (s : State) :
    ∃ t, exec i s = .next t ∧ t.hist = s.hist ++ opEvents i s.requester s.capture ∧
      t.rspOf s.requester = opResult i s.capture ∧ s.Frame t :=
  ⟨_, exec_eq i s, rfl, exec_rspOf i s, exec_frame i s⟩

/-- What a read can do. -/
theorem readField_cases (s : State) (a : Nat) (f : Field) :
    (∃ v, (s.rspOf a).get f = some v ∧ s.readField a f = .next { s with readPort := some ⟨a, f, v⟩ }) ∨
      ((s.rspOf a).get f = none ∧ s.readField a f = .fault (.readUnwritten a f)) := by
  cases h : (s.rspOf a).get f with
  | none => exact .inr ⟨rfl, by simp [State.readField, h]⟩
  | some v => exact .inl ⟨v, rfl, by simp [State.readField, h]⟩

/-- A requester that is served is served. -/
theorem forRequester_serves {s : State} {a : Nat} (h : s.serves a) (act : Host.Outcome State Fault Refusal) :
    forRequester a s act = act := by
  simp [forRequester, h.1, h.2]

/-- A step whose oldest input is a served requester's read is that read. -/
theorem step_read {s : State} {a : Nat} {f : Field} {rest : List Input} (h : s.inputs = .read a f :: rest)
    (hs : s.serves a) : step s = State.readField { s with inputs := rest } a f := by
  simp only [step, serveNext, h, serveInput]
  exact forRequester_serves (s := { s with inputs := rest }) hs _

/-- Whatever a requester gets done, it was served. -/
theorem forRequester_next {s t : State} {a : Nat} {act : Host.Outcome State Fault Refusal}
    (h : forRequester a s act = .next t) : s.serves a ∧ act = .next t := by
  unfold forRequester at h
  split at h
  · cases h
  · next hr =>
    split at h
    · next ha => exact ⟨⟨by simpa using hr, ha⟩, h⟩
    · cases h

/-- Every way a step can answer a next state: no input, a reset, a delivered read, or a completed operation. -/
theorem step_next {s t : State} (h : step s = .next t) :
    (s.inputs = [] ∧ t = s) ∨
    (∃ rest, s.inputs = .reset :: rest ∧ t = State.hostReset { s with inputs := rest }) ∨
    (∃ a f rest v, s.inputs = .read a f :: rest ∧ s.serves a ∧ (s.rspOf a).get f = some v ∧
      t = { s with inputs := rest, readPort := some ⟨a, f, v⟩ }) ∨
    (∃ a w cap rest i, s.inputs = .request a w cap :: rest ∧ s.serves a ∧ decodeReq w = .ok i ∧
      t = (({ s with inputs := rest, requester := a, capture := cap } : State).record
        (opEvents i a cap)).complete (opResult i cap)) := by
  unfold step serveNext at h
  split at h
  · next hin => exact .inl ⟨hin, by cases h; rfl⟩
  · next inp rest hin =>
    cases inp with
    | reset => exact .inr (.inl ⟨rest, hin, by cases h; rfl⟩)
    | read a f =>
      obtain ⟨hs, hact⟩ := forRequester_next h
      rcases readField_cases { s with inputs := rest } a f with ⟨v, hv, he⟩ | ⟨-, he⟩
      · rw [he] at hact
        cases hact
        exact .inr (.inr (.inl ⟨a, f, rest, v, hin, hs, hv, rfl⟩))
      · rw [he] at hact
        cases hact
    | request a w cap =>
      obtain ⟨hs, hact⟩ := forRequester_next h
      unfold serveRequest at hact
      cases hd : decodeReq w with
      | error e => rw [hd] at hact; cases e <;> cases hact
      | ok i =>
        rw [hd] at hact
        simp only [exec_eq] at hact
        cases hact
        exact .inr (.inr (.inr ⟨a, w, cap, rest, i, hin, hs, hd, rfl⟩))

end Sys2Proof.Machine
end

