-- ==== Sys2Proof/Laws/Frame.lean ====
section
/-!
SUPPORT. The encoder's groups, words and frame value, bit field by bit field, and the vendor table.
-/
namespace Sys2Proof.Machine
variable (v : Half) (addr : Address) (cmd : Byte)

/-- Bit `i` of the parity nibble is the XOR of the bits of the vendor code at `i` modulo 4. -/
theorem vendorParity_bit (i : Nat) (hi : i < 4) : (vendorParity v).getLsbD i =
    (v.getLsbD (12 + i) ^^ v.getLsbD (8 + i) ^^ v.getLsbD (4 + i) ^^ v.getLsbD i) := by
  simp (disch := omega) only [vendorParity, BitVec.getLsbD_extractLsb', BitVec.getLsbD_xor,
    BitVec.getLsbD_ushiftRight, decide_eq_true, Bool.true_and, Nat.zero_add]
  rw [show 8 + (4 + i) = 12 + i by omega]
  generalize v.getLsbD (12 + i) = p, v.getLsbD (8 + i) = q, v.getLsbD (4 + i) = r, v.getLsbD i = t
  revert p q r t
  decide

/-- A one shifted into place is one bit. -/
theorem getLsbD_one_shiftLeft (w k i : Nat) (hi : i < w) : ((1#w) <<< k).getLsbD i = decide (i = k) := by
  simp only [BitVec.getLsbD_shiftLeft, BitVec.getLsbD_one, hi]
  rw [Bool.eq_iff_iff]
  simp
  omega

/-- G1's low nibble is the parity nibble. -/
theorem groupG1_low : (groupG1 v addr).extractLsb' 0 4 = vendorParity v := by
  ext i hi
  simp (disch := omega) [groupG1, decide_eq_true]

/-- G1's high nibble is the low nibble of the address. -/
theorem groupG1_high : (groupG1 v addr).extractLsb' 4 4 = addr.extractLsb' 0 4 := by
  have mask : ∀ i, (h : i < 4) → (15#8)[i] = true := by decide
  ext i hi
  simp (disch := omega) [groupG1, BitVec.getLsbD_of_ge, mask i hi]

/-- G2 is the address without its low nibble. -/
theorem groupG2_eq : groupG2 addr = addr.extractLsb' 4 8 := by
  have mask : ∀ i, (h : i < 8) → (255#8)[i] = true := by decide
  ext i hi
  simp [groupG2, mask i hi]

theorem txWord0_g0 : (txWord0 v addr).extractLsb' 0 16 = v := by
  ext i hi
  simp (disch := omega) [txWord0, decide_eq_true]

theorem txWord0_g1 : (txWord0 v addr).extractLsb' 16 8 = groupG1 v addr := by
  ext i hi
  simp (disch := omega) [txWord0, BitVec.getLsbD_of_ge, decide_eq_true]

theorem txWord0_g2 : (txWord0 v addr).extractLsb' 24 8 = groupG2 addr := by
  ext i hi
  simp (disch := omega) [txWord0, BitVec.getLsbD_of_ge, decide_eq_false]

theorem txWord1_g3 : (txWord1 v addr cmd).extractLsb' 0 8 = cmd := by
  ext i hi
  simp (disch := omega) [txWord1, decide_eq_true]

theorem txWord1_g4 : (txWord1 v addr cmd).extractLsb' 8 8 = groupG4 v addr cmd := by
  ext i hi
  simp (disch := omega) [txWord1, BitVec.getLsbD_of_ge]

theorem txWord1_unsent : (txWord1 v addr cmd).extractLsb' 16 16 = 0 := by
  ext i hi
  simp (disch := omega) [txWord1, BitVec.getLsbD_of_ge]

/-- A field of a field is a field. -/
theorem extractLsb'_extractLsb' {w : Nat} (x : BitVec w) (i n j m : Nat) (h : j + m ≤ n) :
    (x.extractLsb' i n).extractLsb' j m = x.extractLsb' (i + j) m := by
  ext k hk
  simp (disch := omega) [Nat.add_assoc]

/-- The encoder's words hold its frame. -/
theorem carriesFrame : CarriesFrame v addr cmd (txWord0 v addr) (txWord1 v addr cmd) where
  g0 := txWord0_g0 v addr
  parity := by
    rw [← groupG1_low v addr, ← txWord0_g1, extractLsb'_extractLsb' _ _ _ _ _ (by omega)]
  addrLow := by
    rw [← groupG1_high v addr, ← txWord0_g1, extractLsb'_extractLsb' _ _ _ _ _ (by omega)]
  addrHigh := by rw [txWord0_g2, groupG2_eq]
  g3 := txWord1_g3 v addr cmd
  g4 := by rw [txWord1_g4, txWord0_g1, txWord0_g2]; rfl
  unsent := txWord1_unsent v addr cmd

/-- The frame's low half is the vendor chunk. -/
theorem frameValue_vendor : (frameValue v addr cmd).extractLsb' 0 16 = v := by
  ext i hi
  simp (disch := omega) [frameValue, decide_eq_true]

theorem frameValue_g1 : (frameValue v addr cmd).extractLsb' 16 8 = groupG1 v addr := by
  ext i hi
  simp (disch := omega) [frameValue, BitVec.getLsbD_of_ge, decide_eq_true]

theorem frameValue_g2 : (frameValue v addr cmd).extractLsb' 24 8 = groupG2 addr := by
  ext i hi
  simp (disch := omega) [frameValue, BitVec.getLsbD_of_ge, decide_eq_true, decide_eq_false]

theorem frameValue_g3 : (frameValue v addr cmd).extractLsb' 32 8 = cmd := by
  ext i hi
  simp (disch := omega) [frameValue, BitVec.getLsbD_of_ge, decide_eq_true, decide_eq_false]

theorem frameValue_g4 : (frameValue v addr cmd).extractLsb' 40 8 = groupG4 v addr cmd := by
  ext i hi
  simp (disch := omega) [frameValue, BitVec.getLsbD_of_ge, decide_eq_false]

/-- Classify is the chain of comparisons R107 writes out. -/
theorem classify_eq : classify v =
    if v = panasonicCode then (.panasonic, none)
    else if v = denonCode then (.denon, none)
    else if v = mitsubishiCode then (.mitsubishi, none)
    else if v = sharpCode then (.sharp, none)
    else if v = jvcCode then (.jvc, none)
    else (.generic, some v) := by
  simp only [classify, vendorTable, lookupVendor]
  by_cases h1 : v = panasonicCode
  · simp [h1]
  by_cases h2 : v = denonCode
  · simp [h2, panasonicCode, denonCode]
  by_cases h3 : v = mitsubishiCode
  · simp [h3, panasonicCode, denonCode, mitsubishiCode]
  by_cases h4 : v = sharpCode
  · simp [h4, panasonicCode, denonCode, mitsubishiCode, sharpCode]
  by_cases h5 : v = jvcCode
  · simp [h5, panasonicCode, denonCode, mitsubishiCode, sharpCode, jvcCode]
  simp [h1, h2, h3, h4, h5]

/-- The vendor code is kept for Generic alone (40_vendor_parity.md R109). -/
theorem classify_extra : (classify v).2 = if (classify v).1 = .generic then some v else none := by
  rw [classify_eq]
  repeat' split
  all_goals simp_all

/-- XTRA says the variant is Generic. -/
theorem hasExtraInfo_classify : hasExtraInfo (classify v).2 = ((classify v).1 == .generic) := by
  rw [classify_extra]
  by_cases h : (classify v).1 = .generic <;> simp [hasExtraInfo, h]

theorem encodeResult_isResult : (encodeResult v addr cmd).IsResult :=
  .encoded v addr cmd _ _ (carriesFrame v addr cmd)

theorem decodeResult_isResult (r : TxWord) (rp : Bool) : (decodeResult v r rp).IsResult := by
  rw [decodeResult, hasExtraInfo_classify, classify_extra]
  exact .decoded ..

theorem classifyResult_isResult : (classifyResult v).IsResult := by
  rw [classifyResult, hasExtraInfo_classify, classify_extra]
  exact .classified v

/-- What an operation leaves is a result of one operation (10_state.md R30). -/
theorem opResult_isResult (i : Instr) (cap : Capture) : (opResult i cap).IsResult := by
  cases i
  case decode =>
    simp only [opResult, encodeOperands, decodeOutcome]
    repeat' split
    · exact .failed _ (by decide)
    · exact .failed _ (by decide)
    · exact decodeResult_isResult ..
    · exact .failed _ (by decide)
  case vparity v => exact .parity v
  case classify v => exact classifyResult_isResult v
  all_goals exact encodeResult_isResult ..

end Sys2Proof.Machine
end

