-- ==== Sys2Proof/Laws/PerInstr.lean ====
section
/-!
SUPPORT. Per operation: the request word the encoder writes is one the block accepts (30_encoding.md R63).
-/
namespace Sys2Proof.Laws.WordAccepted

/-- The encoder's word has `RSVD = 0` and an OP from 0x1 to 0x9. -/
def Statement (i : Instr) : Prop := reqWellFormed (encodeReq i) = true

/-- The check reads the two low fields alone. -/
theorem reqWellFormed_packReq (op : Nibble) (rep : Byte) (v a c : Half) :
    reqWellFormed (packReq op rep v a c) = (decide (1 ≤ op.toNat) && decide (op.toNat ≤ 9)) := by
  have h : reqWellFormed (packReq op rep v a c) =
      (reqRsvd (packReq op rep v a c) == 0 && decide (1 ≤ (reqOp (packReq op rep v a c)).toNat) &&
        decide ((reqOp (packReq op rep v a c)).toNat ≤ 9)) := rfl
  simp [h]

theorem encode (v a c : Half) (r : Byte) : Statement (.encode v a c r) := reqWellFormed_packReq ..
theorem encodePanasonic (a c : Half) (r : Byte) : Statement (.encodePanasonic a c r) := reqWellFormed_packReq ..
theorem encodeDenon (a c : Half) (r : Byte) : Statement (.encodeDenon a c r) := reqWellFormed_packReq ..
theorem encodeMitsubishi (a c : Half) (r : Byte) : Statement (.encodeMitsubishi a c r) := reqWellFormed_packReq ..
theorem encodeSharp (a c : Half) (r : Byte) : Statement (.encodeSharp a c r) := reqWellFormed_packReq ..
theorem encodeJvc (a c : Half) (r : Byte) : Statement (.encodeJvc a c r) := reqWellFormed_packReq ..
theorem decode : Statement .decode := reqWellFormed_packReq ..
theorem vparity (v : Half) : Statement (.vparity v) := reqWellFormed_packReq ..
theorem classify (v : Half) : Statement (.classify v) := reqWellFormed_packReq ..

end Sys2Proof.Laws.WordAccepted
end

