-- ==== Sys2Proof/Tests/Slice0.lean ====
section
/-!
SUPPORT. Small tests. The expected results are those of spec/95_test_vectors.md (the vector's id stands at each test)
or of the rule a comment names. After them, a witness for the hypotheses of every statement that has some.
-/
namespace Sys2Proof.Tests
open Sys2Proof Sys2Proof.Machine

/-! ## The checks refuse ill-formed requests (30_encoding.md R62, R63, R78) -/

theorem test_word_with_reserved_bits : reqWellFormed 0x0000000000000017 = false := by decide
theorem test_word_with_op_zero : reqWellFormed 0x0000000000000000 = false := by decide
theorem test_word_with_op_ten : reqWellFormed 0x000000000000000A = false := by decide
theorem test_word_with_op_nine : reqWellFormed 0x0000000012340009 = true := by decide
theorem test_vendor_too_wide : (AsmLine.vparity 65536).wellFormed = false := by decide
theorem test_vendor_negative : (AsmLine.classify (-1)).wellFormed = false := by decide
theorem test_address_too_wide : (AsmLine.encodeJvc 0x10000 0 0).wellFormed = false := by decide
theorem test_command_too_wide : (AsmLine.encode 0 0 0x10000 0).wellFormed = false := by decide
theorem test_repeat_too_large : (AsmLine.encodeSharp 0 0 128).wellFormed = false := by decide
theorem test_repeat_too_small : (AsmLine.encode 0 0 0 (-129)).wellFormed = false := by decide

/-! ## Words written out from the encoding of R60: CMD_IN, ADDR_IN, VENDOR, REPEAT, RSVD and OP -/

/-- EV5. -/
theorem test_decode_encode :
    decodeReq 0x01ABF1235AAAFF01 = .ok (.encode 0x5AAA 0xF123 0x01AB 0xFF) := rfl
/-- EV12: the wrapper ignores `REQ[31:16]`. -/
theorem test_decode_panasonic : decodeReq 0x00760034BEEF0002 = .ok (.encodePanasonic 0x0034 0x0076 0x00) := rfl
/-- EV7. -/
theorem test_decode_denon : decodeReq 0x0000000100000003 = .ok (.encodeDenon 0x0001 0x0000 0x00) := rfl
/-- EV6. -/
theorem test_decode_mitsubishi : decodeReq 0x005A0ABC00000004 = .ok (.encodeMitsubishi 0x0ABC 0x005A 0x00) := rfl
/-- EV11. -/
theorem test_decode_sharp : decodeReq 0x01ABF12300000005 = .ok (.encodeSharp 0xF123 0x01AB 0x00) := rfl
/-- EV8. -/
theorem test_decode_jvc : decodeReq 0x0080080000000006 = .ok (.encodeJvc 0x0800 0x0080 0x00) := rfl
/-- RV4, with every ignored bit set (R140). -/
theorem test_decode_decode : decodeReq 0xFFFFFFFFFFFFFF07 = .ok .decode := rfl
/-- P2, step 1. -/
theorem test_decode_vparity : decodeReq 0x00000000CB230008 = .ok (.vparity 0xCB23) := rfl
/-- P2, step 3. -/
theorem test_decode_classify : decodeReq 0x0000000012340009 = .ok (.classify 0x1234) := rfl
/-- RV3: the reserved bits are looked at first. -/
theorem test_decode_reserved : decodeReq 0x0000000000000017 = .error (.reservedBits 1) := rfl
/-- R62: "whatever its OP". -/
theorem test_decode_reserved_both : decodeReq 0x00000000000000F0 = .error (.reservedBits 15) := rfl
/-- RV2. -/
theorem test_decode_op_ten : decodeReq 0x000000000000000A = .error (.reservedOp 10) := rfl
/-- R60: "Every request is exactly 64 bits." -/
theorem test_decode_seven_bytes : decodeBytes .lowFirst [7, 0, 0, 0, 0, 0, 0] = .error (.wrongLength 7) := rfl
/-- EV10's word with its bytes in either order (20_memory.md R53). -/
theorem test_decode_bytes :
    decodeBytes .lowFirst [0x02, 0, 0, 0, 0x34, 0, 0x76, 0] = .ok (.encodePanasonic 0x34 0x76 0) ∧
    decodeBytes .highFirst [0, 0x76, 0, 0x34, 0, 0, 0, 0x02] = .ok (.encodePanasonic 0x34 0x76 0) := ⟨rfl, rfl⟩
/-- R80's three words, from the encoder. -/
theorem test_encode_words :
    encodeReq (.encode 0x2002 0x0034 0x76 0) = 0x0076003420020001 ∧
    encodeReq (.encodePanasonic 0x0034 0x76 0) = 0x0076003400000002 ∧
    encodeReq .decode = 0x0000000000000007 := by decide

/-! ## Assembler lines (R78) -/

/-- EV5, with a comment. -/
theorem test_assemble_encode :
    (assembleText "ENCODE 0x5AAA, 0xF123, 0x1AB, -1 ; masked".toList).toOption =
      some (some 0x01ABF1235AAAFF01) := by decide
/-- EV8; decimal and hexadecimal. -/
theorem test_assemble_jvc :
    (assembleText "  ENCODE_JVC 2048,0x80,0".toList).toOption = some (some 0x0080080000000006) := by decide
/-- Why a line is rejected. -/
def asmError (text : List Char) : Option AsmError :=
  match assembleText text with
  | .error e => some e
  | .ok _ => none

/-- "An assembler rejects a value that does not fit." -/
theorem test_assemble_rejects : asmError "VPARITY 0x10000".toList = some .outOfRange := by decide
theorem test_assemble_operand_count : asmError "DECODE 1".toList = some .operandCount := by decide
theorem test_assemble_comment : (assembleText "; nothing".toList).toOption = some none := by decide

/-! ## The shared functions -/

/-- PV1 to PV19. -/
theorem test_vendor_parity :
    ([(0x0000, 0x0), (0xFFFF, 0x0), (0x2002, 0x0), (0x3254, 0x0), (0xCB23, 0x6), (0x5AAA, 0xF),
        (0x0103, 0x2), (0x1234, 0x4), (0x0001, 0x1), (0x0010, 0x1), (0x0100, 0x1), (0x1000, 0x1), (0x8000, 0x8),
        (0xF000, 0xF), (0x00FF, 0x0), (0xABCD, 0x0), (0x1235, 0x5), (0x8421, 0xF), (0x2003, 0x1)] :
        List (Half × Nibble)).all (fun p => vendorParity p.1 == p.2) = true := by decide
/-- FV1 to FV5. -/
theorem test_frame_parity :
    frameParity 0x40 0x03 0x76 = 0x35 ∧ frameParity 0 0 0 = 0 ∧ frameParity 0xFF 0xFF 0xFF = 0xFF ∧
    frameParity 0xF0 0xFF 0xFF = 0xF0 ∧ frameParity 0x3F 0x12 0xAB = 0x86 := by decide
/-- CV1 to CV9. -/
theorem test_classify :
    ([(0x2002, .panasonic, none), (0x3254, .denon, none), (0xCB23, .mitsubishi, none),
        (0x5AAA, .sharp, none), (0x0103, .jvc, none), (0x1234, .generic, some 0x1234),
        (0x0000, .generic, some 0x0000), (0xFFFF, .generic, some 0xFFFF), (0x2003, .generic, some 0x2003)] :
        List (Half × Variant × Option Half)).all (fun p => classify p.1 == p.2) = true := by decide

/-! ## One step each -/

/-- The answers of an oracle whose structural checks all pass. -/
def good (v : Half) (r : TxWord) (rp : Bool) : Capture := ⟨100, true, some v, some r, rp⟩

/-- First power-on with one input waiting. -/
def waiting (i : Input) : State := { State.reset with inputs := [i] }

/-- Requester 0 issues a request. -/
def request (w : Req) (cap : Capture := Capture.noSamples) : State := waiting (.request 0 w cap)

/-- What requester 0 reads after a step. -/
def rspAfter : Host.Outcome State Fault Refusal → Option RespSet
  | .next t => some (t.rspOf 0)
  | _ => none

/-- The history after a step. -/
def histAfter : Host.Outcome State Fault Refusal → List Event
  | .next t => t.hist
  | _ => []

/-- EV5: both inputs masked. -/
theorem test_encode_masks : rspAfter (step (request 0x01ABF1235AAAFF01)) =
    some { status := some .ok, vendor := some 0x5AAA, addr := some 0x123, cmd := some 0xAB, vpar := some 0xF,
           word0 := some 0x123F5AAA, word1 := some 0x000086AB } := by decide
/-- EV5, P5: one `Emit`, its repeat count negative. -/
theorem test_encode_emits : histAfter (step (request 0x01ABF1235AAAFF01)) =
    [.emit 0 Config.proto 0x123F5AAA 0x000086AB 48 (-1)] := rfl
/-- EV12. -/
theorem test_panasonic : (rspAfter (step (request 0x00760034BEEF0002))).map (fun r => (r.vendor, r.word0, r.word1)) =
    some (some 0x2002, some 0x03402002, some 0x00003576) := by decide
/-- EV7. -/
theorem test_denon : (rspAfter (step (request 0x0000000100000003))).map (fun r => (r.vpar, r.word0, r.word1)) =
    some (some 0x0, some 0x00103254, some 0x00001000) := by decide
/-- EV6. -/
theorem test_mitsubishi : (rspAfter (step (request 0x005A0ABC00000004))).map (fun r => (r.vpar, r.word0, r.word1)) =
    some (some 0x6, some 0xABC6CB23, some 0x0000375A) := by decide
/-- EV11. -/
theorem test_sharp : (rspAfter (step (request 0x01ABF12300000005))).map (fun r => (r.vpar, r.word0, r.word1)) =
    some (some 0xF, some 0x123F5AAA, some 0x000086AB) := by decide
/-- EV8. -/
theorem test_jvc : (rspAfter (step (request 0x0080080000000006))).map (fun r => (r.vpar, r.word0, r.word1)) =
    some (some 0x2, some 0x80020103, some 0x00000280) := by decide
/-- DV11: a flipped bit of the vendor code sets VPF alone, and the variant becomes Generic. -/
theorem test_decode_flipped_vendor : rspAfter (step (request 7 (good 0x2003 0x35760340 false))) =
    some { status := some .ok, variant := some .generic, vendor := some 0x2003, addr := some 0x034,
           cmd := some 0x76, nbits := some 48, vpf := some true, fpf := some false, rpt := some false,
           xtra := some true, extra := some 0x2003 } := by decide
/-- DV6b: BitDecodeFailure of the remainder, four events. -/
theorem test_decode_no_remainder :
    rspAfter (step (request 7 ⟨100, true, some 0x2002, none, false⟩)) = some { status := some .bitDecodeFailure } ∧
    histAfter (step (request 7 ⟨100, true, some 0x2002, none, false⟩)) =
      [.qLen 0 100, .qHeader 0 Config.proto true, .qBits 0 Config.proto 16 3 (some 0x2002),
        .qBits 0 Config.proto 32 35 none] := ⟨by decide, rfl⟩
/-- DV4, DV5, DV6a: the earliest failing stage decides. -/
theorem test_decode_priority :
    rspAfter (step (request 7 ⟨0, false, none, none, false⟩)) = some { status := some .lengthMismatch } ∧
    rspAfter (step (request 7 ⟨100, false, some 0x2002, some 0x35760340, true⟩)) =
      some { status := some .headerMismatch } ∧
    rspAfter (step (request 7 ⟨100, true, none, some 0x35760340, false⟩)) =
      some { status := some .bitDecodeFailure } := by decide
/-- P2, step 1. -/
theorem test_vparity : rspAfter (step (request 0x00000000CB230008)) =
    some { status := some .ok, vendor := some 0xCB23, vpar := some 0x6 } := by decide
/-- P2, step 2. -/
theorem test_classify_known : rspAfter (step (request 0x00000000CB230009)) =
    some { status := some .ok, vendor := some 0xCB23, variant := some .mitsubishi, xtra := some false } := by decide
/-- P2, step 3. -/
theorem test_classify_unknown : rspAfter (step (request 0x0000000012340009)) =
    some { status := some .ok, vendor := some 0x1234, variant := some .generic, xtra := some true,
           extra := some 0x1234 } := by decide

/-- P4, step 2: requester 1's DECODE tags its events with 1 and leaves requester 0's set alone. -/
theorem test_second_requester :
    ∃ t, exec .decode { State.reset with
        rsp := [(0, encodeResult 0x1234 0x034 0x76)], requester := 1,
        capture := good 0x1234 0x31760344 true } = .next t ∧
      (t.rspOf 0).word0 = some 0x03441234 ∧ (t.rspOf 1).rpt = some true ∧ (t.rspOf 1).extra = some 0x1234 ∧
      t.hist.head? = some (.qLen 1 100) := ⟨_, rfl, by decide, by decide, by decide, rfl⟩

/-- RV1: refused; REFUSED is set, RSP and HIST stay. -/
theorem test_refused_op :
    step (request 0) = .refused (.reservedOperation 0 0 { State.reset with refused := true }) := rfl
/-- RV3: no query is made. -/
theorem test_refused_bits :
    step (request 0x17) = .refused (.reservedBits 0 0x17 { State.reset with refused := true }) := rfl
/-- RV5: a read right after power-on. -/
theorem test_read_after_reset : step (waiting (.read 0 .addr)) = .fault (.readUnwritten 0 .addr) := rfl
/-- RV7: EXTRA after CV1. -/
theorem test_read_extra_of_known :
    step { waiting (.read 0 .extra) with rsp := [(0, classifyResult 0x2002)] } =
      .fault (.readUnwritten 0 .extra) := rfl
/-- P1, step 2: the value of WORD0 goes to the reader. -/
theorem test_read_word0 :
    step { waiting (.read 0 .word0) with rsp := [(0, encodeResult 0x2002 0x034 0x76)] } =
      .next { State.reset with
        rsp := [(0, encodeResult 0x2002 0x034 0x76)], readPort := some ⟨0, .word0, 0x03402002#32⟩ } := rfl
/-- R190: after a reset a set is empty, and the history keeps its events and ends with `Reset`. -/
theorem test_reset :
    step { waiting .reset with rsp := [(0, classifyResult 0x2002)], hist := [.qLen 0 99], refused := true } =
      .next { State.reset with hist := [.qLen 0 99, .reset], refused := true } := rfl
/-- R31: VPF in bit 0, XTRA in bit 3 (DV11 has VPF and XTRA set). -/
theorem test_flags : (decodeResult 0x2003 0x35760340 false).flags = some 0b1001 := by decide
/-- The canonical form refuses an unordered file, a repeated requester and a listed empty set. -/
theorem test_rsp_wf :
    rspWf [(0, classifyResult 0), (2, classifyResult 1)] = true ∧
    rspWf [(2, classifyResult 0), (0, classifyResult 1)] = false ∧
    rspWf [(1, classifyResult 0), (1, classifyResult 1)] = false ∧ rspWf [(1, .empty)] = false := by decide
/-- A word placed for the next step is performed by it. -/
theorem test_placed_word :
    rspAfter (step (State.reset.withFetchWord 64 0x00000000CB230008)) = some (vparityResult 0xCB23) := by decide

/-! ## Witnesses: the hypotheses of each statement can be met -/

/-- Requester 0 exists in every binding of NUM_REQUESTERS. -/
theorem serves_zero (s : State) (h : s.refused = false) : s.serves 0 := ⟨h, Nat.succ_pos _⟩

theorem witness_OpSelectsOperation :
    ∀ k ∈ ([1, 2, 3, 4, 5, 6, 7, 8, 9] : List Nat),
      (BitVec.ofNat 64 (k + 256)).extractLsb' 4 4 = 0#4 ∧
      (BitVec.ofNat 64 (k + 256)).extractLsb' 0 4 = BitVec.ofNat 4 k ∧
      (BitVec.ofNat 64 (k + 256)).extractLsb' 0 8 = BitVec.ofNat 8 k := by decide

/-- The words with OP 0x0, 0xA and 0xF. -/
theorem witness_OpSelectsOperation_reserved :
    ∀ k ∈ ([0, 10, 15] : List Nat), (BitVec.ofNat 64 k).extractLsb' 4 4 = 0#4 ∧
      (((BitVec.ofNat 64 k).extractLsb' 0 4).toNat = 0 ∨ 10 ≤ ((BitVec.ofNat 64 k).extractLsb' 0 4).toNat) := by
  decide

/-- The low bytes 0x01 to 0x09 of the completion statements: the words of the decode tests have them. -/
theorem witness_CompletionWords :
    (0x01ABF1235AAAFF01 : Req).extractLsb' 0 8 = 0x01 ∧ (0x00760034BEEF0002 : Req).extractLsb' 0 8 = 0x02 ∧
    (0x0080080000000006 : Req).extractLsb' 0 8 = 0x06 ∧ (0x00000000CB230008 : Req).extractLsb' 0 8 = 0x08 ∧
    (0x0000000012340009 : Req).extractLsb' 0 8 = 0x09 := by decide

theorem witness_UnlistedFieldsAreIgnored :
    (let w : Req := 0x00760034BEEF0002
     let w' : Req := 0x0076003400000002
     w.extractLsb' 4 4 = 0 ∧ w.extractLsb' 0 8 = w'.extractLsb' 0 8 ∧ w.extractLsb' 8 8 = w'.extractLsb' 8 8 ∧
       w.extractLsb' 32 16 = w'.extractLsb' 32 16 ∧ w.extractLsb' 48 16 = w'.extractLsb' 48 16) ∧
    (let w : Req := 0xFFFFFFFFFFFFFF07
     w.extractLsb' 4 4 = 0 ∧ w.extractLsb' 0 8 = (7 : Req).extractLsb' 0 8) ∧
    (let w : Req := 0xFFFFFFFFCB23FF09
     let w' : Req := 0x00000000CB230009
     w.extractLsb' 4 4 = 0 ∧ w.extractLsb' 0 8 = w'.extractLsb' 0 8 ∧
       w.extractLsb' 16 16 = w'.extractLsb' 16 16) := by decide

theorem witness_MaskedBitsLeaveNoTrace :
    (0xF123 : Half) &&& 0xFFF = 0x0123 &&& 0xFFF ∧ (0x01AB : Half) &&& 0xFF = 0x00AB &&& 0xFF := by decide

/-- Each range at both ends, and a number past each end. -/
theorem witness_AssembledLineDecodesToItsOperation :
    (AsmLine.encode 65535 0 65535 (-128)).wellFormed = true ∧ (AsmLine.encode 0 65535 0 127).wellFormed = true ∧
    (AsmLine.encode 65536 0 0 0).wellFormed = false ∧ (AsmLine.encodeJvc 0 (-1) 0).wellFormed = false ∧
    (AsmLine.encodeDenon 0 0 128).wellFormed = false ∧ (AsmLine.classify 65536).wellFormed = false := by decide

theorem witness_AssemblerForms : readForm "VPARITY".toList [7] = .ok (.vparity 7) := rfl

/-- A field of two bytes that pads, in both orders, and a field of one. -/
theorem witness_BusBytesOfARegister :
    registerBytes .lowFirst (.response .addr) (0x123 : BitVec 12) = [0x23, 0x01] ∧
    registerBytes .highFirst (.response .addr) (0x123 : BitVec 12) = [0x01, 0x23] ∧
    registerBytes .highFirst (.response .vpf) (1 : BitVec 1) = [1] := by decide

theorem witness_CaptureLayout :
    sampleAt (3 + 2 * 47) = some (.mark 47) ∧ sampleAt (4 + 2 * 47) = some (.space 47) ∧ sampleAt 100 = none := by
  decide

theorem witness_VendorParityBitFlip :
    vendorParity (0x2002 ^^^ (1#16 <<< 15)) = 0x8 ∧ (3 < 16 ∧ 15 < 16 ∧ 3 % 4 = 15 % 4) := by decide

theorem witness_FrameParityBitFlip : (7 < 8) ∧ frameParity (0x40 ^^^ (1#8 <<< 7)) 0x03 0x76 = 0xB5 := by decide

theorem witness_VariantCodes : (classifyResult 0x0103).get .variant = some 5#3 := rfl

theorem witness_OnlyEncodesEmitAndExactlyOnce :
    repeatField? (.encodeJvc 0 0 0x80) = some 0x80 ∧ repeatField? .decode = none ∧
    repeatField? (.classify 0) = none := by decide

theorem witness_EncodingTwiceEmitsTwice : (repeatField? (.encode 0 0 0 0x80)).isSome = true := by decide

/-- A state whose request in service has these answers. -/
def answered (c : Capture) : State := { State.reset with capture := c }

theorem witness_DecodeLengthMismatch : (answered ⟨101, true, some 0, some 0, true⟩).capture.len ≠ 100 := by decide

theorem witness_DecodeHeaderMismatch :
    let s := answered ⟨100, false, some 0, some 0, true⟩
    s.capture.len = 100 ∧ s.capture.header = false := by decide

theorem witness_DecodeVendorChunkFailure :
    let s := answered ⟨100, true, none, some 0, true⟩
    s.capture.len = 100 ∧ s.capture.header = true ∧ s.capture.vendorBits = none := by decide

theorem witness_DecodeRemainderFailure :
    let s := answered ⟨100, true, some 0x2002, none, true⟩
    s.capture.len = 100 ∧ s.capture.header = true ∧ s.capture.vendorBits = some 0x2002 ∧
      s.capture.restBits = none := by decide

theorem witness_DecodeSucceeds :
    let s := answered (good 0x2002 0x35760341 true)
    s.capture.len = 100 ∧ s.capture.header = true ∧ s.capture.vendorBits = some 0x2002 ∧
      s.capture.restBits = some 0x35760341 := by decide

theorem witness_ParityFlagsChangeNothingElse :
    (good 0x2002 0x35760340 true).restBits = some 0x35760340 ∧
    (0x35760340 : TxWord).extractLsb' 4 20 = (0x0076034F : TxWord).extractLsb' 4 20 := by decide

/-- The last bit of the frame, and the last bit of a table code, whose flip makes it Generic. -/
theorem witness_SingleBitErrorFlags :
    47 < 48 ∧ 15 < 16 ∧ (classify 0x2002).1 ≠ .generic ∧
    (decodeOutcome (idealCapture (frameValue 0x2002 0x034 0x76 ^^^ (1#48 <<< 15)) true)).variant =
      some .generic := by decide

/-- One capture for each failing stage. -/
theorem witness_FailedDecodeGivesNoResult :
    ∀ c ∈ ([⟨99, true, some 0, some 0, true⟩, ⟨100, false, some 0, some 0, true⟩,
        ⟨100, true, none, some 0, true⟩, ⟨100, true, some 0, none, true⟩] : List Capture),
      ¬ ((answered c).capture.len = 100 ∧ (answered c).capture.header = true ∧
        (answered c).capture.vendorBits.isSome = true ∧ (answered c).capture.restBits.isSome = true) := by decide

theorem witness_ReservedWordsAreRefused :
    (request 0x17).pends 0 0x17 Capture.noSamples [] ∧ (0x17 : Req).extractLsb' 4 4 ≠ 0 ∧
    (request 0).pends 0 0 Capture.noSamples [] ∧ ((0 : Req).extractLsb' 0 4).toNat = 0 ∧
    (request 0xA).pends 0 0xA Capture.noSamples [] ∧ 10 ≤ ((0xA : Req).extractLsb' 0 4).toNat ∧
    (request 9).pends 0 9 Capture.noSamples [] ∧ ((9 : Req).extractLsb' 0 4).toNat ≤ 9 :=
  ⟨⟨rfl, serves_zero _ rfl⟩, by decide, ⟨rfl, serves_zero _ rfl⟩, by decide, ⟨rfl, serves_zero _ rfl⟩,
    by decide, ⟨rfl, serves_zero _ rfl⟩, by decide⟩

theorem witness_RefusedIsSticky :
    (∃ t, step { waiting .reset with refused := true } = .next t ∧ t.refused = true) ∧
    (∃ u, step (request 0x17) = .refused (.reservedBits 0 0x17 u)) ∧
    (∃ u, step (request 0) = .refused (.reservedOperation 0 0 u)) := ⟨⟨_, rfl, rfl⟩, ⟨_, rfl⟩, ⟨_, rfl⟩⟩

theorem witness_NoServiceAfterARefusal :
    ({ request 7 with refused := true } : State).refused = true ∧
    ({ request 7 with refused := true } : State).inputs = [.request 0 7 Capture.noSamples] ∧
    ({ waiting (.read 0 .status) with refused := true } : State).inputs = [.read 0 .status] := by decide

theorem witness_NoServiceForAbsentRequester :
    (waiting (.read Config.numRequesters .status)).refused = false ∧
    Config.numRequesters ≤ Config.numRequesters ∧
    (waiting (.read Config.numRequesters .status)).inputs = [.read Config.numRequesters .status] ∧
    (waiting (.request Config.numRequesters 7 Capture.noSamples)).inputs =
      [.request Config.numRequesters 7 Capture.noSamples] := ⟨rfl, Nat.le_refl _, rfl, rfl⟩

/-- Two states that differ in REFUSED, in their requester and in the answers, for an operation that is no DECODE; two
that differ in REFUSED and in their requester, for a DECODE; and two of one requester. -/
theorem witness_ResultDependsOnRequestAndOracleAlone :
    (let s := State.reset
     let s' := { answered (good 0 0 true) with refused := true, requester := 1 }
     s.requester ≠ s'.requester ∧ (Instr.vparity 0 = .decode → s.capture = s'.capture)) ∧
    (let s := answered (good 0 0 true)
     let s' := { answered (good 0 0 true) with refused := true, requester := 1 }
     s.requester ≠ s'.requester ∧ (Instr.decode = .decode → s.capture = s'.capture)) ∧
    (let s := answered (good 0 0 true)
     let s' := { answered (good 0 0 true) with refused := true }
     s.requester = s'.requester ∧ (Instr.decode = .decode → s.capture = s'.capture)) := by decide

theorem witness_InterleavingReordersOnlyHistory : (0 : Nat) ≠ 1 := by decide

theorem witness_ReadingAnUnwrittenFieldFaults :
    (waiting (.read 0 .extra)).inputs = [.read 0 .extra] ∧ (waiting (.read 0 .extra)).serves 0 ∧
    ((waiting (.read 0 .extra)).rspOf 0).get .extra = none := ⟨rfl, serves_zero _ rfl, rfl⟩

/-- A state in which requester 0 has completed a VPARITY and reads its result twice. -/
def readsTwice : State :=
  { State.reset with rsp := [(0, vparityResult 0xCB23)], inputs := [.read 0 .vpar, .read 0 .vpar] }

theorem witness_ReadingHasNoSideEffect :
    readsTwice.inputs = .read 0 .vpar :: [.read 0 .vpar] ∧ readsTwice.serves 0 ∧
    (readsTwice.rspOf 0).get .vpar = some 0x6#4 := ⟨rfl, serves_zero _ rfl, rfl⟩

/-- A field that holds a value, and one that holds none. -/
theorem witness_EachFieldReadsAsItsOwnValue :
    readsTwice.serves 0 ∧ readsTwice.inputs = .read 0 .vpar :: [.read 0 .vpar] ∧
    (readsTwice.rspOf 0).vpar = some 0x6 ∧ ({ readsTwice with inputs := [.read 0 .word0] } : State).serves 0 ∧
    (readsTwice.rspOf 0).word0 = none := ⟨serves_zero _ rfl, rfl, by decide, serves_zero _ rfl, rfl⟩

/-- A state in which requester 0 issues a VPARITY and then reads a field. -/
def requestThenRead (f : Field) : State :=
  { State.reset with inputs := [.request 0 0x00000000CB230008 Capture.noSamples, .read 0 f] }

/-- A field the request writes, and one it does not. -/
theorem witness_ResultsAreReadableInTheNextStep :
    (requestThenRead .vpar).pends 0 0x00000000CB230008 Capture.noSamples [.read 0 .vpar] ∧
    decodeReq 0x00000000CB230008 = .ok (.vparity 0xCB23) ∧
    (vparityResult 0xCB23).get .vpar = some 0x6#4 ∧ (vparityResult 0xCB23).get .word0 = none :=
  ⟨⟨rfl, serves_zero _ rfl⟩, rfl, rfl, rfl⟩

theorem witness_FlagsAndTheirPackedView : (decodeResult 0x2002 0x35760341 true).flags = some 0b0111 := by decide

theorem witness_ResetLeaves : (waiting .reset).inputs = .reset :: [] := rfl

theorem witness_ResetKeepsWaitingInputs :
    ({ waiting .reset with inputs := [.reset, .read 0 .status] } : State).inputs =
      .reset :: [.read 0 .status] := rfl

theorem witness_HistoryOnlyGrows : ∃ t, step (request 0x0000000000000001) = .next t ∧ t.hist.length = 1 :=
  ⟨_, rfl, rfl⟩

theorem witness_StepRunsTheDecodedRequest :
    (request 7).pends 0 7 Capture.noSamples [] ∧ decodeReq 7 = .ok .decode := ⟨⟨rfl, serves_zero _ rfl⟩, rfl⟩

theorem witness_IdleStepChangesNothing : State.reset.inputs = [] := rfl

/-- A state after an encode, about to decode: it meets the invariant, and its step answers a next state. -/
def midRun : State :=
  { request 7 (good 0x2002 0x35760340 true) with
    rsp := [(0, encodeResult 0x2002 0x034 0x76)], hist := [emitEvent 0 0x2002 0x034 0x76 0] }

theorem witness_StepKeepsInvariant : midRun.Inv ∧ ∃ t, step midRun = .next t := by
  refine ⟨⟨by decide, ?_, ?_, rfl, ?_⟩, ⟨_, rfl⟩⟩
  · intro e he
    simp only [midRun, List.mem_singleton] at he
    subst he
    exact Nat.succ_pos _
  · intro e he
    simp only [midRun, List.mem_singleton] at he
    subst he
    exact encodeResult_isResult ..
  · intro e he
    simp only [midRun, List.mem_singleton] at he
    subst he
    refine ⟨Nat.succ_pos _, rfl, rfl, by decide, by decide, 0x034, ?_⟩
    rw [txWord0_g0, txWord1_g3]
    exact carriesFrame 0x2002 0x034 0x76

end Sys2Proof.Tests
end

section
/-!
Reads of response fields (10_state.md R29).
-/
namespace Sys2Proof.Machine

/-- A read is its fault exactly when its field holds none: the two ways a read can end exclude each other. -/
theorem readField_eq_fault_iff (s : State) (a : Nat) (f : Field) :
    s.readField a f = .fault (.readUnwritten a f) ↔ (s.rspOf a).get f = none := by
  obtain ⟨v, hv, hnext⟩ | ⟨hnone, hfault⟩ := readField_cases s a f
  · simp [hv, hnext]
  · simp [hnone, hfault]

/-- Settles O42: the step of a served read is that read, and removing the input changes no register set. -/
theorem readingAnUnwrittenFieldFaults : Obligations.ReadingAnUnwrittenFieldFaults := by
  intro s a f rest hin hs
  rw [step_read hin hs]
  exact (readField_eq_fault_iff { s with inputs := rest } a f).symm

end Sys2Proof.Machine
end

section
/-!
The masks of ENCODE's operands (30_encoding.md R66, R67).
-/
namespace Sys2Proof.Machine

/-- The low bits of a value, kept by a mask that is all ones there. -/
theorem extractLsb'_zero_eq_mask {w n : Nat} (x mask : BitVec w) (ones : mask.setWidth n = BitVec.allOnes n) :
    x.extractLsb' 0 n = (x &&& mask).setWidth n := by
  rw [BitVec.setWidth_and, ones, BitVec.and_allOnes]
  exact BitVec.eq_of_toNat_eq (by simp)

/-- R66: truncating to 12 bits is masking with 0xFFF. -/
theorem addressOperand_eq_mask (addrIn : Half) : addressOperand addrIn = (addrIn &&& 0xFFF).setWidth 12 :=
  extractLsb'_zero_eq_mask addrIn 0xFFF (by decide)

/-- R67: truncating to 8 bits is masking with 0xFF. -/
theorem commandOperand_eq_mask (cmdIn : Half) : commandOperand cmdIn = (cmdIn &&& 0xFF).setWidth 8 :=
  extractLsb'_zero_eq_mask cmdIn 0xFF (by decide)

/-- ENCODE reads ADDR_IN and CMD_IN through their operand values alone. -/
theorem exec_encode_congr {a a' c c' : Half} (v : Half) (r : Byte) (s : State)
    (ha : addressOperand a = addressOperand a') (hc : commandOperand c = commandOperand c') :
    exec (.encode v a c r) s = exec (.encode v a' c' r) s := by
  simp only [exec_eq, opEvents, opResult, encodeOperands, ha, hc]

/-- Settles O6: the operand values are the masked inputs, and nothing else of the inputs reaches the next state. -/
theorem maskedBitsLeaveNoTrace : Obligations.MaskedBitsLeaveNoTrace := by
  intro v a c a' c' r s ha hc
  have sameAddr : addressOperand a = addressOperand a' := by simp only [addressOperand_eq_mask, ha]
  have sameCmd : commandOperand c = commandOperand c' := by simp only [commandOperand_eq_mask, hc]
  obtain ⟨t, hexec, -, hrsp, -⟩ := exec_completes (.encode v a c r) s
  refine ⟨t, hexec, (exec_encode_congr v r s sameAddr sameCmd).symm.trans hexec, ?_, ?_⟩
  · rw [hrsp, ← addressOperand_eq_mask]
    rfl
  · rw [hrsp, ← commandOperand_eq_mask]
    rfl

end Sys2Proof.Machine
end

section
/-!
The three ways the decoder can answer a request word (30_encoding.md R62, R63), and the step of a pending request.
-/
namespace Sys2Proof

/-- An OP from 0x1 to 0x9 names an operation, and every other OP is reserved. -/
theorem decodeOp_cases (w : Req) :
    (1 ≤ (reqOp w).toNat ∧ (reqOp w).toNat ≤ 9 ∧ ∃ i, decodeOp w = .ok i) ∨
    (((reqOp w).toNat = 0 ∨ 10 ≤ (reqOp w).toNat) ∧ decodeOp w = .error (.reservedOp (reqOp w))) := by
  unfold decodeOp
  split
  case h_10 =>
    refine .inr ⟨?_, rfl⟩
    simp only [imp_false] at *
    omega
  all_goals exact .inl ⟨by omega, by omega, _, rfl⟩

/-- RSVD is looked at first, whatever the OP; the OP decides where RSVD is 0. -/
theorem decodeReq_cases (w : Req) :
    (reqRsvd w ≠ 0 ∧ decodeReq w = .error (.reservedBits (reqRsvd w))) ∨
    (reqRsvd w = 0 ∧ ((reqOp w).toNat = 0 ∨ 10 ≤ (reqOp w).toNat) ∧
      decodeReq w = .error (.reservedOp (reqOp w))) ∨
    (reqRsvd w = 0 ∧ 1 ≤ (reqOp w).toNat ∧ (reqOp w).toNat ≤ 9 ∧ ∃ i, decodeReq w = .ok i) := by
  unfold decodeReq
  by_cases hrsvd : reqRsvd w = 0
  · rw [if_pos hrsvd]
    obtain ⟨hlow, hhigh, hok⟩ | ⟨hop, herr⟩ := decodeOp_cases w
    · exact .inr (.inr ⟨hrsvd, hlow, hhigh, hok⟩)
    · exact .inr (.inl ⟨hrsvd, hop, herr⟩)
  · rw [if_neg hrsvd]
    exact .inl ⟨hrsvd, rfl⟩

namespace Machine

/-- A step whose oldest input is a served requester's request serves that request. -/
theorem step_request {s : State} {a : Nat} {w : Req} {cap : Capture} {rest : List Input}
    (h : s.pends a w cap rest) : step s = serveRequest a w cap { s with inputs := rest } := by
  obtain ⟨hin, hs⟩ := h
  simp only [step, serveNext, hin, serveInput]
  exact forRequester_serves (s := { s with inputs := rest }) hs _

theorem serveRequest_ok {w : Req} {i : Instr} (h : decodeReq w = .ok i) (a : Nat) (cap : Capture) (s : State) :
    serveRequest a w cap s = exec i (s.accept a cap) := by
  simp only [serveRequest, h]

theorem serveRequest_error {w : Req} {e : DecodeError} (h : decodeReq w = .error e) (a : Nat) (cap : Capture)
    (s : State) : serveRequest a w cap s = refuseRequest a w s e := by
  simp only [serveRequest, h]

/-- Settles O34: the step serves the request, and the decoder's three answers are the statement's three cases. -/
theorem reservedWordsAreRefused : Obligations.ReservedWordsAreRefused := by
  intro s a w cap rest hpends
  rw [step_request hpends]
  change (reqRsvd w ≠ 0 → _) ∧ (reqRsvd w = 0 → (reqOp w).toNat = 0 ∨ 10 ≤ (reqOp w).toNat → _) ∧
    (reqRsvd w = 0 → 1 ≤ (reqOp w).toNat → (reqOp w).toNat ≤ 9 → _)
  obtain ⟨hrsvd, herr⟩ | ⟨hrsvd, hop, herr⟩ | ⟨hrsvd, hlow, hhigh, i, hok⟩ := decodeReq_cases w
  · exact ⟨fun _ => serveRequest_error herr a cap _, fun h => absurd h hrsvd, fun h => absurd h hrsvd⟩
  · exact ⟨fun h => absurd hrsvd h, fun _ _ => serveRequest_error herr a cap _, fun _ _ _ => by omega⟩
  · refine ⟨fun h => absurd hrsvd h, fun _ _ => by omega, fun _ _ _ => ?_⟩
    obtain ⟨t, hexec, -⟩ := exec_completes i (State.accept { s with inputs := rest } a cap)
    exact ⟨i, t, hok, (serveRequest_ok hok a cap _).trans hexec, hexec⟩

end Machine
end Sys2Proof
end

section
/-!
Request words by their low byte, which holds OP and RSVD (30_encoding.md R60).
-/
namespace Sys2Proof

theorem reqOp_eq_lowByte (w : Req) : reqOp w = (w.extractLsb' 0 8).extractLsb' 0 4 :=
  (Machine.extractLsb'_extractLsb' w 0 8 0 4 (by decide)).symm

theorem reqRsvd_eq_lowByte (w : Req) : reqRsvd w = (w.extractLsb' 0 8).extractLsb' 4 4 :=
  (Machine.extractLsb'_extractLsb' w 0 8 4 4 (by decide)).symm

/-- Where the low byte's high nibble, RSVD, is 0, the OP alone selects the operation (R63). -/
theorem decodeReq_of_lowByte {w : Req} {b : Byte} (low : w.extractLsb' 0 8 = b) (rsvd : b.extractLsb' 4 4 = 0) :
    decodeReq w = decodeOp w ∧ reqOp w = b.extractLsb' 0 4 := by
  have hrsvd : reqRsvd w = 0 := by rw [reqRsvd_eq_lowByte, low, rsvd]
  exact ⟨if_pos hrsvd, by rw [reqOp_eq_lowByte, low]⟩

theorem decodeReq_vparity {w : Req} (low : w.extractLsb' 0 8 = 0x08) :
    decodeReq w = .ok (.vparity (reqVendor w)) := by
  obtain ⟨hdecode, hop⟩ := decodeReq_of_lowByte low (by decide)
  simp [hdecode, decodeOp, hop]

theorem decodeReq_classify {w : Req} (low : w.extractLsb' 0 8 = 0x09) :
    decodeReq w = .ok (.classify (reqVendor w)) := by
  obtain ⟨hdecode, hop⟩ := decodeReq_of_lowByte low (by decide)
  simp [hdecode, decodeOp, hop]

end Sys2Proof
end

section
/-!
Vendor parity and the classifier (40_vendor_parity.md): the variant codes, and the two operations that expose the
shared functions.
-/
namespace Sys2Proof.Machine

/-- R108: codes 6 and 7 are no variant's. -/
theorem variant_code_le (var : Variant) : var.code.toNat ≤ 5 := by
  cases var <;> decide

/-- Settles O13: a VARIANT that holds a value reads as the code of one of the six variants. -/
theorem variantCodes : Obligations.VariantCodes := by
  refine ⟨rfl, rfl, rfl, rfl, rfl, rfl, fun r c hread => ?_⟩
  obtain ⟨var, -, rfl⟩ := Option.map_eq_some_iff.mp hread
  exact variant_code_le var

/-- An operation that records no event leaves the history as it is. -/
theorem exec_completes_silently {i : Instr} {s : State} (silent : opEvents i s.requester s.capture = []) :
    ∃ t, exec i s = .next t ∧ t.hist = s.hist ∧ t.rspOf s.requester = opResult i s.capture ∧ s.Frame t := by
  obtain ⟨t, hexec, hhist, hrsp, hframe⟩ := exec_completes i s
  rw [silent, List.append_nil] at hhist
  exact ⟨t, hexec, hhist, hrsp, hframe⟩

/-- Settles O14: VPARITY records no event, and the fold of R100 is what `vendorParity` computes. -/
theorem vparityCompletes : Obligations.VparityCompletes :=
  ⟨fun _ low => decodeReq_vparity low, fun v s => exec_completes_silently (i := .vparity v) (s := s) rfl⟩

/-- The register set of CLASSIFY for a vendor code the table gives the variant `var` (R109, R111). -/
def knownVendorResult (v : Half) (var : Variant) : RespSet :=
  { RespSet.empty with status := some .ok, vendor := some v, variant := some var, xtra := some false }

/-- The register set of CLASSIFY for a vendor code the table does not list: EXTRA keeps the code (R109, R111). -/
def unknownVendorResult (v : Half) : RespSet :=
  { RespSet.empty with
    status := some .ok, vendor := some v, variant := some .generic, xtra := some true, extra := some v }

/-- CLASSIFY's register set along R107's chain of comparisons. -/
theorem classifyResult_eq (v : Half) : classifyResult v =
    if v = panasonicCode then knownVendorResult v .panasonic
    else if v = denonCode then knownVendorResult v .denon
    else if v = mitsubishiCode then knownVendorResult v .mitsubishi
    else if v = sharpCode then knownVendorResult v .sharp
    else if v = jvcCode then knownVendorResult v .jvc
    else unknownVendorResult v := by
  rw [classifyResult, classify_eq]
  repeat' split
  all_goals rfl

/-- Settles O15: CLASSIFY records no event, and its register set follows R107's chain. -/
theorem classifyCompletes : Obligations.ClassifyCompletes := by
  refine ⟨fun _ low => decodeReq_classify low, fun v s => ?_⟩
  obtain ⟨t, hexec, hhist, hrsp, hframe⟩ := exec_completes_silently (i := .classify v) (s := s) rfl
  exact ⟨t, hexec, hhist, hrsp.trans (classifyResult_eq v), hframe⟩

end Sys2Proof.Machine
end

section
/-!
The encoder (41_encoder.md): what ENCODE and the five wrappers do is said once, over the operands `encodeOperands`
gives, and the wrappers are one table of OPs, vendor codes and parity nibbles (R130 to R134).
-/
namespace Sys2Proof

/-- Where the low byte is an OP value alone, RSVD is 0 and OP is that value (30_encoding.md R60). -/
theorem reqRsvd_reqOp_of_lowByte {w : Req} {op : Nibble} (low : w.extractLsb' 0 8 = op.setWidth 8) :
    reqRsvd w = 0 ∧ reqOp w = op := by
  have nibbles : ∀ n : Nibble, (n.setWidth 8 : Byte).extractLsb' 4 4 = 0 ∧
      (n.setWidth 8 : Byte).extractLsb' 0 4 = n := by decide
  rw [reqRsvd_eq_lowByte, reqOp_eq_lowByte, low]
  exact nibbles op

theorem decodeReq_encode {w : Req} (rsvd : reqRsvd w = 0) (op : reqOp w = 0x1) :
    decodeReq w = .ok (.encode (reqVendor w) (reqAddrIn w) (reqCmdIn w) (reqRepeat w)) := by
  simp [decodeReq, rsvd, decodeOp, op]

namespace Machine

section Encode
variable {i j : Instr} {v a c : Half} {r : Byte}

/-- An encode records the `Emit` of its operands alone. -/
theorem opEvents_of_encodeOperands (h : encodeOperands i = some (v, a, c, r)) (q : Nat) (cap : Capture) :
    opEvents i q cap = [emitEvent q v (addressOperand a) (commandOperand c) (repeatOperand r)] := by
  simp only [opEvents, h]

theorem opResult_of_encodeOperands (h : encodeOperands i = some (v, a, c, r)) (cap : Capture) :
    opResult i cap = encodeResult v (addressOperand a) (commandOperand c) := by
  simp only [opResult, h]

/-- An operation with encode operands completes as the encode of these operands (R121). -/
theorem exec_encodesFrame (h : encodeOperands i = some (v, a, c, r)) (s : State) :
    EncodesFrame v (vendorParity v) a c r s (exec i s) := by
  obtain ⟨t, hexec, hhist, hrsp, hframe⟩ := exec_completes i s
  rw [opEvents_of_encodeOperands h] at hhist
  rw [opResult_of_encodeOperands h] at hrsp
  exact ⟨t, _, _, hexec, hhist, hrsp, carriesFrame v (addressOperand a) (commandOperand c), hframe⟩

/-- Operations with the same encode operands are one operation (R129). -/
theorem exec_eq_of_encodeOperands (hi : encodeOperands i = some (v, a, c, r))
    (hj : encodeOperands j = some (v, a, c, r)) (s : State) : exec i s = exec j s := by
  simp only [exec_eq, opEvents_of_encodeOperands hi, opEvents_of_encodeOperands hj,
    opResult_of_encodeOperands hi, opResult_of_encodeOperands hj]

end Encode

/-- Settles O16: ENCODE's operands are its own fields. -/
theorem encodeCompletes : Obligations.EncodeCompletes := by
  refine ⟨fun w low => ?_, fun v a c r s => exec_encodesFrame rfl s⟩
  obtain ⟨rsvd, op⟩ := reqRsvd_reqOp_of_lowByte (op := 0x1) low
  exact decodeReq_encode rsvd op

/-- The wrapper table: the OP, the fixed vendor code, its parity nibble and the operation (R130 to R134). -/
inductive IsWrapper : Nibble → Half → Nibble → (Half → Half → Byte → Instr) → Prop where
  | panasonic : IsWrapper 0x2 panasonicCode 0x0 .encodePanasonic
  | denon : IsWrapper 0x3 denonCode 0x0 .encodeDenon
  | mitsubishi : IsWrapper 0x4 mitsubishiCode 0x6 .encodeMitsubishi
  | sharp : IsWrapper 0x5 sharpCode 0xF .encodeSharp
  | jvc : IsWrapper 0x6 jvcCode 0x2 .encodeJvc

section Wrapper
variable {op vp : Nibble} {code : Half} {mk : Half → Half → Byte → Instr}

theorem IsWrapper.decodes (h : IsWrapper op code vp mk) {w : Req} (rsvd : reqRsvd w = 0) (hop : reqOp w = op) :
    decodeReq w = .ok (mk (reqAddrIn w) (reqCmdIn w) (reqRepeat w)) := by
  cases h <;> simp [decodeReq, rsvd, decodeOp, hop]

theorem IsWrapper.encodeOperands_eq (h : IsWrapper op code vp mk) (a c : Half) (r : Byte) :
    encodeOperands (mk a c r) = some (code, a, c, r) := by
  cases h <;> rfl

theorem IsWrapper.vendorParity_eq (h : IsWrapper op code vp mk) : vendorParity code = vp := by
  cases h <;> decide

theorem IsWrapper.decodes_of_lowByte (h : IsWrapper op code vp mk) {w : Req}
    (low : w.extractLsb' 0 8 = op.setWidth 8) :
    decodeReq w = .ok (mk (reqAddrIn w) (reqCmdIn w) (reqRepeat w)) := by
  obtain ⟨rsvd, hop⟩ := reqRsvd_reqOp_of_lowByte low
  exact h.decodes rsvd hop

theorem IsWrapper.encodesFrame (h : IsWrapper op code vp mk) (a c : Half) (r : Byte) (s : State) :
    EncodesFrame code vp a c r s (exec (mk a c r) s) := by
  rw [← h.vendorParity_eq]
  exact exec_encodesFrame (h.encodeOperands_eq a c r) s

/-- Both words decode, to operations with the same encode operands (R129). -/
theorem IsWrapper.serveRequest_eq (h : IsWrapper op code vp mk) (anyVendor a c : Half) (r : Byte) (q : Nat)
    (cap : Capture) (s : State) :
    serveRequest q (packReq op r anyVendor a c) cap s = serveRequest q (packReq 0x1 r code a c) cap s := by
  have hwrapper : decodeReq (packReq op r anyVendor a c) = .ok (mk a c r) := by
    simpa using h.decodes (reqRsvd_packReq op r anyVendor a c) (reqOp_packReq ..)
  have hencode : decodeReq (packReq 0x1 r code a c) = .ok (.encode code a c r) := by
    simpa using decodeReq_encode (reqRsvd_packReq 0x1 r code a c) (reqOp_packReq ..)
  rw [serveRequest_ok hwrapper, serveRequest_ok hencode]
  exact exec_eq_of_encodeOperands (h.encodeOperands_eq a c r) rfl _

end Wrapper

/-- Settles O17, row by row of the wrapper table. -/
theorem wrappersComplete : Obligations.WrappersComplete :=
  ⟨fun _ => ⟨IsWrapper.panasonic.decodes_of_lowByte, IsWrapper.denon.decodes_of_lowByte,
      IsWrapper.mitsubishi.decodes_of_lowByte, IsWrapper.sharp.decodes_of_lowByte,
      IsWrapper.jvc.decodes_of_lowByte⟩,
    fun a c r s => ⟨IsWrapper.panasonic.encodesFrame a c r s, IsWrapper.denon.encodesFrame a c r s,
      IsWrapper.mitsubishi.encodesFrame a c r s, IsWrapper.sharp.encodesFrame a c r s,
      IsWrapper.jvc.encodesFrame a c r s⟩⟩

/-- Settles O18, row by row of the wrapper table. -/
theorem wrapperIsEncodeWithFixedVendor : Obligations.WrapperIsEncodeWithFixedVendor :=
  fun anyVendor a c r q cap s =>
    ⟨IsWrapper.panasonic.serveRequest_eq anyVendor a c r q cap s,
      IsWrapper.denon.serveRequest_eq anyVendor a c r q cap s,
      IsWrapper.mitsubishi.serveRequest_eq anyVendor a c r q cap s,
      IsWrapper.sharp.serveRequest_eq anyVendor a c r q cap s,
      IsWrapper.jvc.serveRequest_eq anyVendor a c r q cap s⟩

/-- The operations with a REPEAT field are the encodes. -/
theorem repeatField?_eq (i : Instr) : repeatField? i = (encodeOperands i).map (·.2.2.2) := by
  cases i <;> rfl

/-- A DECODE makes queries alone. -/
theorem decodeEvents_isEmit_eq_false (q : Nat) (cap : Capture) : ∀ e ∈ decodeEvents q cap, e.isEmit = false := by
  unfold decodeEvents
  repeat' split
  all_goals simp [Event.isEmit]

/-- An operation that is no encode records no `Emit`. -/
theorem opEvents_isEmit_eq_false {i : Instr} (h : encodeOperands i = none) (q : Nat) (cap : Capture) :
    ∀ e ∈ opEvents i q cap, e.isEmit = false := by
  cases i
  case decode => exact decodeEvents_isEmit_eq_false q cap
  case vparity | classify => simp [opEvents, encodeOperands]
  all_goals cases h

/-- Settles O19: the events of an operation are fixed by its encode operands, where it has any. -/
theorem onlyEncodesEmitAndExactlyOnce : Obligations.OnlyEncodesEmitAndExactlyOnce := by
  intro i s
  obtain ⟨t, hexec, hhist, hrsp, -⟩ := exec_completes i s
  refine ⟨t, _, hexec, hhist, fun r hr => ?_, fun hnone => ?_⟩
  · rw [repeatField?_eq] at hr
    obtain ⟨⟨v, a, c, r'⟩, hops, rfl⟩ := Option.map_eq_some_iff.mp hr
    rw [hrsp, opResult_of_encodeOperands hops]
    exact ⟨_, _, opEvents_of_encodeOperands hops _ _, rfl, rfl⟩
  · rw [repeatField?_eq, Option.map_eq_none_iff] at hnone
    exact opEvents_isEmit_eq_false hnone _ _

end Machine
end Sys2Proof
end

section
/-!
The decoder (42_decoder.md): how a DECODE ends, read off its capture. A failing stage ends it with the queries made so
far (R141, R142); a capture that passes every stage gives R147's fields and R148's flags; and of the remainder chunk
only bits 4 to 23, which are address and command, reach anything but the parity flags (R149).
-/
namespace Sys2Proof.Machine

/-- A DECODE whose capture makes these queries and ends in this failure fails with them. -/
theorem exec_decode_failsWith {s : State} {st : Status} {queries : List Event}
    (events : decodeEvents s.requester s.capture = queries)
    (outcome : decodeOutcome s.capture = failureResult st) : FailsWith st queries s (exec .decode s) := by
  obtain ⟨t, hexec, hhist, hrsp, hframe⟩ := exec_completes .decode s
  exact ⟨t, hexec, hhist.trans (congrArg _ events), hrsp.trans outcome, hframe⟩

section Captures
variable {c : Capture} (a : Nat)

theorem decodeEvents_of_header_false (hlen : c.len = 100) (hheader : c.header = false) :
    decodeEvents a c = [.qLen a 100, .qHeader a Config.proto false] := by
  simp [decodeEvents, hlen, hheader]

theorem decodeOutcome_of_header_false (hlen : c.len = 100) (hheader : c.header = false) :
    decodeOutcome c = failureResult .headerMismatch := by
  simp [decodeOutcome, hlen, hheader]

theorem decodeEvents_of_chunks {v : Half} {r : TxWord} (hlen : c.len = 100) (hheader : c.header = true)
    (hvendor : c.vendorBits = some v) (hrest : c.restBits = some r) :
    decodeEvents a c =
      [.qLen a 100, .qHeader a Config.proto true, .qBits a Config.proto 16 3 (some v),
        .qBits a Config.proto 32 35 (some r), .qRepeat a Config.proto.repeatPeriod c.repeatOk] := by
  simp [decodeEvents, hlen, hheader, hvendor, hrest]

theorem decodeOutcome_of_chunks {v : Half} {r : TxWord} (hlen : c.len = 100) (hheader : c.header = true)
    (hvendor : c.vendorBits = some v) (hrest : c.restBits = some r) :
    decodeOutcome c = decodeResult v r c.repeatOk := by
  simp [decodeOutcome, hlen, hheader, hvendor, hrest]

end Captures

/-- Settles O22: the length check is the first stage. -/
theorem decodeLengthMismatch : Obligations.DecodeLengthMismatch :=
  fun _ hlen => exec_decode_failsWith (if_pos hlen) (if_pos hlen)

/-- Settles O23: the header check is the second stage. -/
theorem decodeHeaderMismatch : Obligations.DecodeHeaderMismatch :=
  fun _ hlen hheader => exec_decode_failsWith (decodeEvents_of_header_false _ hlen hheader)
    (decodeOutcome_of_header_false hlen hheader)

/-- R151: XTRA and EXTRA say whether the variant is Generic. -/
theorem decodeResult_eq (v : Half) (r : TxWord) (rp : Bool) : decodeResult v r rp =
    { RespSet.empty with
      status := some .ok, variant := some (classify v).1, vendor := some v, addr := some (rxAddress r),
      cmd := some (rxCommand r), nbits := some 48,
      vpf := some (rxParityNibble r != vendorParity v),
      fpf := some (rxFrameParity r != frameParity (rxG1 r) (rxG2 r) (rxCommand r)),
      rpt := some rp, xtra := some ((classify v).1 == .generic),
      extra := if (classify v).1 = .generic then some v else none } := by
  rw [decodeResult, hasExtraInfo_classify, classify_extra]
  rfl

/-- Settles O26: the capture passes every stage, and its fields stand at R75's places. -/
theorem decodeSucceeds : Obligations.DecodeSucceeds := by
  intro s v r hlen hheader hvendor hrest
  have events := decodeEvents_of_chunks s.requester hlen hheader hvendor hrest
  have outcome := decodeOutcome_of_chunks hlen hheader hvendor hrest
  obtain ⟨t, hexec, hhist, hrsp, hframe⟩ := exec_completes .decode s
  exact ⟨t, hexec, hhist.trans (congrArg _ events), (hrsp.trans outcome).trans (decodeResult_eq v r _), hframe⟩

/-- A register set but for VPF and FPF, the fields R149 lets the parity bits change. -/
def RespSet.withoutParityFlags (r : RespSet) : RespSet := { r with vpf := none, fpf := none }

section ParityBits
variable {r r' : TxWord} (same : r.extractLsb' 4 20 = r'.extractLsb' 4 20)
include same

theorem rxAddress_eq_of_middleBits : rxAddress r = rxAddress r' := by
  have low (x : TxWord) : (x.extractLsb' 4 20).extractLsb' 0 12 = rxAddress x :=
    extractLsb'_extractLsb' x 4 20 0 12 (by decide)
  rw [← low r, same, low r']

theorem rxCommand_eq_of_middleBits : rxCommand r = rxCommand r' := by
  have high (x : TxWord) : (x.extractLsb' 4 20).extractLsb' 12 8 = rxCommand x :=
    extractLsb'_extractLsb' x 4 20 12 8 (by decide)
  rw [← high r, same, high r']

theorem decodeResult_withoutParityFlags_congr (v : Half) (rp : Bool) :
    (decodeResult v r rp).withoutParityFlags = (decodeResult v r' rp).withoutParityFlags := by
  simp only [decodeResult, RespSet.withoutParityFlags, rxAddress_eq_of_middleBits same,
    rxCommand_eq_of_middleBits same]

/-- A capture that fails does so with either remainder chunk; one that succeeds has the two results compared above. -/
theorem decodeOutcome_withoutParityFlags_congr {c : Capture} (hrest : c.restBits = some r) :
    (decodeOutcome c).withoutParityFlags =
      (decodeOutcome { c with restBits := some r' }).withoutParityFlags := by
  simp only [decodeOutcome, hrest]
  split
  · rfl
  · split
    · rfl
    · cases c.vendorBits with
      | none => rfl
      | some v => exact decodeResult_withoutParityFlags_congr same v c.repeatOk

end ParityBits

/-- Settles O27: the two register sets are the outcomes of the two captures. -/
theorem parityFlagsChangeNothingElse : Obligations.ParityFlagsChangeNothingElse := by
  intro s c r r' hrest same
  obtain ⟨t, hexec, -, hrsp, -⟩ := exec_completes .decode { s with capture := c }
  obtain ⟨t', hexec', -, hrsp', -⟩ := exec_completes .decode { s with capture := { c with restBits := some r' } }
  refine ⟨t, t', hexec, hexec', ?_⟩
  change (t.rspOf s.requester).withoutParityFlags = (t'.rspOf s.requester).withoutParityFlags
  rw [hrsp, hrsp']
  exact decodeOutcome_withoutParityFlags_congr same hrest

end Sys2Proof.Machine
end

section
/-!
Structural failures (60_exceptions.md R170 to R174): the STATUS a DECODE leaves is that of its capture's earliest
failing stage, and the register set of a failed DECODE holds that STATUS alone.
-/
namespace Sys2Proof.Machine

/-- The status of a capture's earliest failing stage, `.ok` where no stage fails (R171, R174). -/
def decodeStatus (c : Capture) : Status :=
  if c.len ≠ 100 then .lengthMismatch
  else if c.header = false then .headerMismatch
  else if c.vendorBits = none then .bitDecodeFailure
  else if c.restBits = none then .bitDecodeFailure
  else .ok

/-- The capture passes every structural check (R170). -/
def Capture.Passes (c : Capture) : Prop :=
  c.len = 100 ∧ c.header = true ∧ c.vendorBits.isSome = true ∧ c.restBits.isSome = true

/-- A DECODE leaves its failure's register set, or passes every check and leaves the result of its two chunks. -/
theorem decodeOutcome_cases (c : Capture) :
    decodeOutcome c = failureResult (decodeStatus c) ∨
    (c.Passes ∧ decodeStatus c = .ok ∧ ∃ v r, decodeOutcome c = decodeResult v r c.repeatOk) := by
  by_cases hlen : c.len = 100
  · cases hheader : c.header with
    | false => exact .inl (by simp [decodeStatus, decodeOutcome, hlen, hheader])
    | true =>
      cases hvendor : c.vendorBits with
      | none => exact .inl (by simp [decodeStatus, decodeOutcome, hlen, hheader, hvendor])
      | some v =>
        cases hrest : c.restBits with
        | none => exact .inl (by simp [decodeStatus, decodeOutcome, hlen, hheader, hvendor, hrest])
        | some r =>
          exact .inr ⟨by simp [Capture.Passes, hlen, hheader, hvendor, hrest],
            by simp [decodeStatus, hlen, hheader, hvendor, hrest],
            v, r, decodeOutcome_of_chunks hlen hheader hvendor hrest⟩
  · exact .inl (by simp [decodeStatus, decodeOutcome, hlen])

theorem decodeOutcome_status (c : Capture) : (decodeOutcome c).status = some (decodeStatus c) := by
  obtain hfail | ⟨-, hok, v, r, hresult⟩ := decodeOutcome_cases c
  · rw [hfail]
    rfl
  · rw [hresult, hok]
    rfl

/-- R174: a failure's register set has no parity flag. -/
theorem decodeOutcome_status_of_parityFlag {c : Capture}
    (flag : (decodeOutcome c).vpf.isSome = true ∨ (decodeOutcome c).fpf.isSome = true) :
    (decodeOutcome c).status = some .ok := by
  obtain hfail | ⟨-, -, v, r, hresult⟩ := decodeOutcome_cases c
  · rw [hfail] at flag
    simp [failureResult, RespSet.empty] at flag
  · rw [hresult]
    rfl

/-- R171's codes along R174's order. -/
theorem decodeStatus_code (c : Capture) : (decodeStatus c).code =
    if c.len ≠ 100 then 1#4
    else if c.header = false then 2#4
    else if c.vendorBits = none then 3#4
    else if c.restBits = none then 3#4
    else 0#4 := by
  simp only [decodeStatus, apply_ite Status.code]
  rfl

/-- One query for each stage reached. -/
theorem decodeEvents_length (a : Nat) (c : Capture) : (decodeEvents a c).length =
    if c.len ≠ 100 then 1
    else if c.header = false then 2
    else if c.vendorBits = none then 3
    else if c.restBits = none then 4
    else 5 := by
  simp only [decodeEvents, apply_ite List.length]
  rfl

/-- Settles O32: STATUS and the queries follow the same chain of stages. -/
theorem earliestFailureDecides : Obligations.EarliestFailureDecides := by
  intro s
  obtain ⟨t, hexec, hhist, hrsp, -⟩ := exec_completes .decode s
  replace hrsp : t.rspOf s.requester = decodeOutcome s.capture := hrsp
  refine ⟨t, hexec, ?_, ?_, ?_⟩
  · rw [← decodeStatus_code, hrsp]
    exact congrArg (Option.map Status.code) (decodeOutcome_status s.capture)
  · rw [← decodeEvents_length s.requester, hhist, List.length_append]
    rfl
  · rw [hrsp]
    exact decodeOutcome_status_of_parityFlag

section Failure
variable {c : Capture} (failed : ¬ c.Passes)
include failed

theorem decodeOutcome_of_failed : decodeOutcome c = failureResult (decodeStatus c) := by
  obtain hfail | ⟨hpasses, -⟩ := decodeOutcome_cases c
  · exact hfail
  · exact absurd hpasses failed

/-- The last check fails where the others pass. -/
theorem restBits_eq_none_of_failed (hlen : c.len = 100) (hheader : c.header = true)
    (hvendor : c.vendorBits ≠ none) : c.restBits = none := by
  by_contra hrest
  exact failed ⟨hlen, hheader, Option.isSome_iff_ne_none.mpr hvendor, Option.isSome_iff_ne_none.mpr hrest⟩

/-- Both chunk queries fail with the same code. -/
theorem decodeStatus_of_failed : decodeStatus c =
    if c.len ≠ 100 then .lengthMismatch
    else if c.header = false then .headerMismatch else .bitDecodeFailure := by
  unfold decodeStatus
  split_ifs with hlen hheader hvendor hrest
  case neg =>
    exact absurd (restBits_eq_none_of_failed failed (not_not.mp hlen) (eq_true_of_ne_false hheader) hvendor) hrest
  all_goals rfl

/-- The queries of a failed DECODE, the last one with the answer that failed. -/
theorem decodeEvents_of_failed (a : Nat) : decodeEvents a c =
    if c.len ≠ 100 then [.qLen a c.len]
    else if c.header = false then [.qLen a 100, .qHeader a Config.proto false]
    else if c.vendorBits = none then
      [.qLen a 100, .qHeader a Config.proto true, .qBits a Config.proto 16 3 none]
    else
      [.qLen a 100, .qHeader a Config.proto true, .qBits a Config.proto 16 3 c.vendorBits,
        .qBits a Config.proto 32 35 none] := by
  by_cases hlen : c.len = 100
  · cases hheader : c.header with
    | false => simp [decodeEvents, hlen, hheader]
    | true =>
      by_cases hvendor : c.vendorBits = none
      · simp [decodeEvents, hlen, hheader, hvendor]
      · simp [decodeEvents, hlen, hheader, hvendor, restBits_eq_none_of_failed failed hlen hheader hvendor]
  · simp [decodeEvents, hlen]

end Failure

/-- In a failure's register set STATUS alone can be read. -/
theorem failureResult_get_isSome (st : Status) (f : Field) :
    ((failureResult st).get f).isSome = decide (f = .status) := by
  cases f <;> rfl

/-- Settles O33: the failure's queries and register set are those of the earliest failing stage. -/
theorem failedDecodeGivesNoResult : Obligations.FailedDecodeGivesNoResult := by
  intro s failed
  obtain ⟨t, hexec, hhist, hrsp, hframe⟩ :=
    exec_decode_failsWith (decodeEvents_of_failed failed s.requester) (decodeOutcome_of_failed failed)
  replace hrsp : t.rspOf s.requester = failureResult (decodeStatus s.capture) := hrsp
  refine ⟨t, hexec, ?_, fun f => ?_, hhist, hframe⟩
  · rw [hrsp, ← decodeStatus_of_failed failed]
    rfl
  · rw [State.readable, hrsp]
    exact failureResult_get_isSome _ f

end Sys2Proof.Machine
end

section
/-!
The host's reset (70_reset_and_hazards.md R190, 10_state.md R35).
-/
namespace Sys2Proof.Machine

/-- No field of the register set after reset can be read. -/
@[simp] theorem RespSet.empty_get (f : Field) : RespSet.empty.get f = none := by
  cases f <;> rfl

/-- Reset empties the register set of every requester, not only of the one in service. -/
@[simp] theorem hostReset_rspOf (s : State) (a : Nat) : s.hostReset.rspOf a = .empty := readRsp_nil a

/-- A step whose oldest input is a reset is that reset, in a refused run too: it names no requester. -/
theorem step_hostReset {s : State} {rest : List Input} (hin : s.inputs = .reset :: rest) :
    step s = .next (State.hostReset { s with inputs := rest }) := by
  simp only [step, serveNext, hin, serveInput]

/-- Settles O46: the step is the host's reset, and removing the input changes neither HIST nor REFUSED. -/
theorem resetLeaves : Obligations.ResetLeaves := by
  intro s rest hin
  refine ⟨_, step_hostReset hin, fun a f => ?_, hostReset_hist _, hostReset_refused _⟩
  rw [hostReset_rspOf, RespSet.empty_get]

end Sys2Proof.Machine
end

section
/-!
Request words by RSVD and OP (30_encoding.md R60 to R63): which operation each accepted word is, with the fields R61's
table lists for it, and that the encoder's word decodes to the operation it was made from.
-/
namespace Sys2Proof
open Machine

section DecodedWord
variable {w : Req}

theorem decodeReq_decode (rsvd : reqRsvd w = 0) (op : reqOp w = 0x7) : decodeReq w = .ok .decode := by
  simp [decodeReq, rsvd, decodeOp, op]

theorem decodeReq_vparity_of_op (rsvd : reqRsvd w = 0) (op : reqOp w = 0x8) :
    decodeReq w = .ok (.vparity (reqVendor w)) := by
  simp [decodeReq, rsvd, decodeOp, op]

theorem decodeReq_classify_of_op (rsvd : reqRsvd w = 0) (op : reqOp w = 0x9) :
    decodeReq w = .ok (.classify (reqVendor w)) := by
  simp [decodeReq, rsvd, decodeOp, op]

theorem decodeReq_reservedOp (rsvd : reqRsvd w = 0) (op : (reqOp w).toNat = 0 ∨ 10 ≤ (reqOp w).toNat) :
    decodeReq w = .error (.reservedOp (reqOp w)) := by
  obtain ⟨hrsvd, -⟩ | ⟨-, -, herr⟩ | ⟨-, hlow, hhigh, -⟩ := decodeReq_cases w
  · exact absurd rsvd hrsvd
  · exact herr
  · omega

end DecodedWord

/-- A packed wrapper word is that wrapper, whatever stands in its VENDOR field. -/
theorem Machine.IsWrapper.decodes_packReq {op vp : Nibble} {code : Half} {mk : Half → Half → Byte → Instr}
    (h : IsWrapper op code vp mk) (r : Byte) (v a c : Half) : decodeReq (packReq op r v a c) = .ok (mk a c r) := by
  simpa using h.decodes (reqRsvd_packReq op r v a c) (reqOp_packReq ..)

/-- Settles O1: the packed word has RSVD 0 and the operation's OP, and each packed field reads back. -/
theorem decodeOfEncode : Obligations.DecodeOfEncode := by
  intro i
  cases i with
  | encode v a c r => simpa [encodeReq] using decodeReq_encode (reqRsvd_packReq 0x1 r v a c) (reqOp_packReq ..)
  | encodePanasonic a c r => exact IsWrapper.panasonic.decodes_packReq r 0 a c
  | encodeDenon a c r => exact IsWrapper.denon.decodes_packReq r 0 a c
  | encodeMitsubishi a c r => exact IsWrapper.mitsubishi.decodes_packReq r 0 a c
  | encodeSharp a c r => exact IsWrapper.sharp.decodes_packReq r 0 a c
  | encodeJvc a c r => exact IsWrapper.jvc.decodes_packReq r 0 a c
  | decode => exact decodeReq_decode (reqRsvd_packReq ..) (reqOp_packReq ..)
  | vparity v => simpa [encodeReq] using decodeReq_vparity_of_op (reqRsvd_packReq 0x8 0 v 0 0) (reqOp_packReq ..)
  | classify v => simpa [encodeReq] using decodeReq_classify_of_op (reqRsvd_packReq 0x9 0 v 0 0) (reqOp_packReq ..)

/-- Settles O2: of the decoder's three answers the last alone is an operation. -/
theorem wordsThatNameAnOperation : Obligations.WordsThatNameAnOperation := by
  intro w
  change (∃ i, decodeReq w = .ok i) ↔ reqRsvd w = 0 ∧ 1 ≤ (reqOp w).toNat ∧ (reqOp w).toNat ≤ 9
  obtain ⟨hrsvd, herr⟩ | ⟨-, hop, herr⟩ | ⟨hrsvd, hlow, hhigh, hok⟩ := decodeReq_cases w
  · simp only [herr, reduceCtorEq, exists_false, false_iff]
    exact fun h => hrsvd h.1
  · simp only [herr, reduceCtorEq, exists_false, false_iff]
    omega
  · exact iff_of_true hok ⟨hrsvd, hlow, hhigh⟩

/-- Settles O3: one lemma per row of R61's table, the wrappers' rows by the wrapper table. -/
theorem opSelectsOperation : Obligations.OpSelectsOperation :=
  fun _ rsvd => ⟨decodeReq_encode rsvd, IsWrapper.panasonic.decodes rsvd, IsWrapper.denon.decodes rsvd,
    IsWrapper.mitsubishi.decodes rsvd, IsWrapper.sharp.decodes rsvd, IsWrapper.jvc.decodes rsvd,
    decodeReq_decode rsvd, decodeReq_vparity_of_op rsvd, decodeReq_classify_of_op rsvd,
    decodeReq_reservedOp rsvd⟩

/-- Every OP from 0x2 to 0x6 is a wrapper's. -/
theorem exists_isWrapper {op : Nibble} (low : 2 ≤ op.toNat) (high : op.toNat ≤ 6) :
    ∃ code vp mk, IsWrapper op code vp mk := by
  obtain rfl | rfl | rfl | rfl | rfl : op = 0x2 ∨ op = 0x3 ∨ op = 0x4 ∨ op = 0x5 ∨ op = 0x6 := by bv_omega
  · exact ⟨_, _, _, .panasonic⟩
  · exact ⟨_, _, _, .denon⟩
  · exact ⟨_, _, _, .mitsubishi⟩
  · exact ⟨_, _, _, .sharp⟩
  · exact ⟨_, _, _, .jvc⟩

/-- Words that name the same operation are served alike. -/
theorem serveRequest_congr {w w' : Req} {i i' : Instr} (h : decodeReq w = .ok i) (h' : decodeReq w' = .ok i')
    (same : i = i') (a : Nat) (cap : Capture) (s : State) : serveRequest a w cap s = serveRequest a w' cap s := by
  rw [serveRequest_ok h, serveRequest_ok h', same]

/-- Settles O4: with RSVD, OP and the listed fields equal, both words name the same operation. -/
theorem unlistedFieldsAreIgnored : Obligations.UnlistedFieldsAreIgnored := by
  intro w w' a cap s (rsvd : reqRsvd w = 0) low op sameEncode hcases
  have rsvd' : reqRsvd w' = 0 := by rw [reqRsvd_eq_lowByte, ← low, ← reqRsvd_eq_lowByte, rsvd]
  have hop : reqOp w' = reqOp w := by rw [reqOp_eq_lowByte, ← low, ← reqOp_eq_lowByte]
  have opEq {n : Nibble} (h : op = n.toNat) : reqOp w = n := BitVec.eq_of_toNat_eq h
  obtain ⟨hlow, hhigh, hrep, haddr, hcmd⟩ | hdecode | ⟨hvparity | hclassify, hvendor⟩ := hcases
  · obtain ⟨code, vp, mk, hw⟩ := exists_isWrapper (op := reqOp w) hlow hhigh
    have same : mk (reqAddrIn w) (reqCmdIn w) (reqRepeat w) = mk (reqAddrIn w') (reqCmdIn w') (reqRepeat w') := by
      simp only [reqAddrIn, reqCmdIn, reqRepeat, hrep, haddr, hcmd]
    exact serveRequest_congr (hw.decodes rsvd rfl) (hw.decodes rsvd' hop) same a cap s
  · have h := opEq (n := 0x7) hdecode
    exact serveRequest_congr (decodeReq_decode rsvd h) (decodeReq_decode rsvd' (hop.trans h)) rfl a cap s
  · have h := opEq (n := 0x8) hvparity
    exact serveRequest_congr (decodeReq_vparity_of_op rsvd h) (decodeReq_vparity_of_op rsvd' (hop.trans h))
      (congrArg Instr.vparity hvendor) a cap s
  · have h := opEq (n := 0x9) hclassify
    exact serveRequest_congr (decodeReq_classify_of_op rsvd h) (decodeReq_classify_of_op rsvd' (hop.trans h))
      (congrArg Instr.classify hvendor) a cap s

/-- Settles O5: each word's RSVD, OP and fields are read off by evaluation. -/
theorem workedWordsDecode : Obligations.WorkedWordsDecode :=
  ⟨rfl, rfl, rfl, rfl, rfl, rfl⟩

end Sys2Proof
end

section
/-!
The assembler (30_encoding.md R78): which operands fit, where each stands in the word, and which mnemonic with which
operands is which form.
-/
namespace Sys2Proof.Machine

section Ranges
variable {n : Int}

theorem fitsHalf_iff : fitsHalf n = true ↔ 0 ≤ n ∧ n ≤ 65535 := by
  simp only [fitsHalf, Bool.and_eq_true, decide_eq_true_eq]
  omega

theorem fitsRepeat_iff : fitsRepeat n = true ↔ -128 ≤ n ∧ n ≤ 127 := by
  simp [fitsRepeat]

theorem fitsFixed_iff {a c r : Int} : fitsFixed a c r = true ↔
    (0 ≤ a ∧ a ≤ 65535) ∧ (0 ≤ c ∧ c ≤ 65535) ∧ -128 ≤ r ∧ r ≤ 127 := by
  simp only [fitsFixed, Bool.and_eq_true, fitsHalf_iff, fitsRepeat_iff, and_assoc]

/-- A number that fits a half word stands in its field unchanged. -/
theorem halfField_toNat (h : 0 ≤ n ∧ n ≤ 65535) : ((halfField n).toNat : Int) = n := by
  simp only [halfField, BitVec.toNat_ofInt]
  omega

/-- A number that fits a repeat count stands in its field unchanged. -/
theorem repeatField_toInt (h : -128 ≤ n ∧ n ≤ 127) : (repeatField n).toInt = n := by
  simp only [repeatField, BitVec.toInt_ofInt, Int.bmod_def]
  omega

end Ranges

/-- A line whose form has these four numbers, 0 for each operand it does not have, is assembled iff it is well formed
(R78): the word decodes to its operation by `decodeOfEncode`, and its fields are the packed ones. -/
theorem assemblesIff_of_encodeReq {fits : Prop} {l : AsmLine} {op : Nibble} {v a c r : Int}
    (wellFormed : l.wellFormed = true ↔ fits)
    (word : encodeReq (asmInstr l) = packReq op (repeatField r) (halfField v) (halfField a) (halfField c))
    (range : fits → fitsHalf v = true ∧ fitsFixed a c r = true) :
    AssemblesIff fits l (asmInstr l) op v a c r := by
  refine ⟨fun h => ?_, fun h => if_neg (mt wellFormed.mp h)⟩
  obtain ⟨hv, hfixed⟩ := range h
  obtain ⟨ha, hc, hr⟩ := fitsFixed_iff.mp hfixed
  refine ⟨encodeReq (asmInstr l), if_pos (wellFormed.mpr h), decodeOfEncode _, ?_⟩
  rw [word]
  refine ⟨reqOp_packReq .., reqRsvd_packReq .., ?_, ?_, ?_, ?_⟩
  · exact (congrArg BitVec.toInt (reqRepeat_packReq ..)).trans (repeatField_toInt hr)
  · exact (congrArg (fun x : Half => (x.toNat : Int)) (reqVendor_packReq ..)).trans
      (halfField_toNat (fitsHalf_iff.mp hv))
  · exact (congrArg (fun x : Half => (x.toNat : Int)) (reqAddrIn_packReq ..)).trans (halfField_toNat ha)
  · exact (congrArg (fun x : Half => (x.toNat : Int)) (reqCmdIn_packReq ..)).trans (halfField_toNat hc)

/-- A vendor-fixed form: its operands are address, command and repeat. -/
theorem assemblesIff_fixed {l : AsmLine} {op : Nibble} {a c r : Int} (wellFormed : l.wellFormed = fitsFixed a c r)
    (word : encodeReq (asmInstr l) = packReq op (repeatField r) 0 (halfField a) (halfField c)) :
    AssemblesIff ((0 ≤ a ∧ a ≤ 65535) ∧ (0 ≤ c ∧ c ≤ 65535) ∧ -128 ≤ r ∧ r ≤ 127) l (asmInstr l) op 0 a c r :=
  assemblesIff_of_encodeReq (by rw [wellFormed, fitsFixed_iff]) word fun h => ⟨rfl, fitsFixed_iff.mpr h⟩

/-- A form whose one operand is a vendor code. -/
theorem assemblesIff_vendor {l : AsmLine} {op : Nibble} {v : Int} (wellFormed : l.wellFormed = fitsHalf v)
    (word : encodeReq (asmInstr l) = packReq op 0 (halfField v) 0 0) :
    AssemblesIff (0 ≤ v ∧ v ≤ 65535) l (asmInstr l) op v 0 0 0 :=
  assemblesIff_of_encodeReq (by rw [wellFormed, fitsHalf_iff]) word fun h => ⟨fitsHalf_iff.mpr h, rfl⟩

/-- Settles O8, form by form. -/
theorem assembledLineDecodesToItsOperation : Obligations.AssembledLineDecodesToItsOperation := by
  intro v a c r
  refine ⟨?_, assemblesIff_fixed rfl rfl, assemblesIff_fixed rfl rfl, assemblesIff_fixed rfl rfl,
    assemblesIff_fixed rfl rfl, assemblesIff_fixed rfl rfl, ?_, assemblesIff_vendor rfl rfl,
    assemblesIff_vendor rfl rfl⟩
  · have wellFormed : (AsmLine.encode v a c r).wellFormed = true ↔ _ :=
      Bool.and_eq_true_iff.trans (and_congr fitsHalf_iff fitsFixed_iff)
    exact assemblesIff_of_encodeReq wellFormed rfl fun h => ⟨fitsHalf_iff.mpr h.1, fitsFixed_iff.mpr h.2⟩
  · exact assemblesIff_of_encodeReq (iff_of_true rfl trivial) rfl fun _ => ⟨rfl, rfl⟩

theorem fixedForm_eq_ok_iff (form : Int → Int → Int → AsmLine) (ops : List Int) (l : AsmLine) :
    fixedForm form ops = .ok l ↔ ∃ a c r, ops = [a, c, r] ∧ l = form a c r := by
  unfold fixedForm
  split
  · simp [eq_comm]
  · next hcount => simpa using fun a c r h => absurd h (hcount a c r)

theorem vendorForm_eq_ok_iff (form : Int → AsmLine) (ops : List Int) (l : AsmLine) :
    vendorForm form ops = .ok l ↔ ∃ v, ops = [v] ∧ l = form v := by
  unfold vendorForm
  split
  · simp [eq_comm]
  · next hcount => simpa using fun v h => absurd h (hcount v)

theorem readForm_encode_eq_ok_iff (ops : List Int) (l : AsmLine) :
    readForm "ENCODE".toList ops = .ok l ↔ ∃ v a c r, ops = [v, a, c, r] ∧ l = .encode v a c r := by
  unfold readForm
  rw [if_pos rfl]
  split
  · simp [eq_comm]
  · next hcount => simpa using fun v a c r h => absurd h (hcount v a c r)

theorem readForm_decode_eq_ok_iff (ops : List Int) (l : AsmLine) :
    readForm "DECODE".toList ops = .ok l ↔ ops = [] ∧ l = .decode := by
  have arm : readForm "DECODE".toList ops = if ops.isEmpty then .ok .decode else .error .operandCount := rfl
  rw [arm]
  cases ops <;> simp [eq_comm]

/-- Settles O54: the mnemonics differ from each other, and each form takes its own count of operands. -/
theorem assemblerForms : Obligations.AssemblerForms := by
  intro m ops l
  by_cases hencode : m = "ENCODE".toList
  · subst hencode
    rw [readForm_encode_eq_ok_iff]
    simp
  by_cases hdecode : m = "DECODE".toList
  · subst hdecode
    rw [readForm_decode_eq_ok_iff]
    simp
  simp only [readForm, hencode, hdecode, if_false, false_and, exists_false, false_or]
  split_ifs with h h h h h h h
  case neg => simp only [*, false_and, exists_false, or_self]
  all_goals
    subst h
    simp [fixedForm_eq_ok_iff, vendorForm_eq_ok_iff]

end Sys2Proof.Machine
end

section
/-!
Words as bytes on a platform's bus (20_memory.md R53), and the sample indices of a capture (30_encoding.md R76).
-/
namespace Sys2Proof

/-- Bytes laid out in an order and read back in it are the value they were made from. -/
theorem bytesValue_orderBytes_valueBytes (order : ByteOrder) (n v : Nat) :
    bytesValue (orderBytes order (orderBytes order (valueBytes n v))) = v % 256 ^ n := by
  rw [orderBytes_orderBytes, bytesValue_valueBytes]

@[simp] theorem bytesReq_reqBytes (order : ByteOrder) (w : Req) : bytesReq order (reqBytes order w) = w := by
  have fits : w.toNat % 256 ^ 8 = w.toNat := Nat.mod_eq_of_lt w.isLt
  rw [bytesReq, reqBytes, bytesValue_orderBytes_valueBytes, fits, BitVec.ofNat_toNat, BitVec.setWidth_eq]

theorem reqBytes_length (order : ByteOrder) (w : Req) : (reqBytes order w).length = 8 := by
  simp [reqBytes]

/-- Settles O7: the bytes hold the word, and there are 8 of them. -/
theorem busBytesDecodeAsTheirWord : Obligations.BusBytesDecodeAsTheirWord := by
  intro order w
  refine ⟨reqBytes_length order w, ?_⟩
  rw [decodeBytes, if_pos (reqBytes_length order w), bytesReq_reqBytes]

/-- Byte `i` of a value is its bits `8i` to `8i+7`. -/
theorem ofNat_div_pow_eq_extractLsb' {n : Nat} (v : BitVec n) (i : Nat) :
    BitVec.ofNat 8 (v.toNat / 256 ^ i) = v.extractLsb' (8 * i) 8 := by
  rw [BitVec.extractLsb', Nat.shiftRight_eq_div_pow, Nat.pow_mul]

/-- Where byte `i` of the low-first order stands in a byte order. -/
theorem orderBytes_getElem? (order : ByteOrder) (bs : List Byte) {i : Nat} (h : i < bs.length) :
    (orderBytes order bs)[i]? = bs[if order = .lowFirst then i else bs.length - 1 - i]? := by
  cases order with
  | lowFirst => rfl
  | highFirst => exact List.getElem?_reverse h

namespace Machine

theorem registerBytes_length (order : ByteOrder) (r : BusRegister) (v : BitVec r.width) :
    (registerBytes order r v).length = r.bytes := by
  simp [registerBytes]

/-- A register's bytes are enough for its width. -/
theorem toNat_lt_pow_bytes (r : BusRegister) (v : BitVec r.width) : v.toNat < 256 ^ r.bytes := by
  have enough : r.width ≤ 8 * r.bytes := by
    unfold BusRegister.bytes
    omega
  calc v.toNat < 2 ^ r.width := v.isLt
    _ ≤ 2 ^ (8 * r.bytes) := Nat.pow_le_pow_right (by decide) enough
    _ = 256 ^ r.bytes := Nat.pow_mul 2 8 r.bytes

theorem bytesRegister_registerBytes (order : ByteOrder) (r : BusRegister) (v : BitVec r.width) :
    bytesRegister order r (registerBytes order r v) = some v := by
  rw [bytesRegister, if_pos (registerBytes_length order r v), registerBytes, bytesValue_orderBytes_valueBytes,
    Nat.mod_eq_of_lt (toNat_lt_pow_bytes r v), BitVec.ofNat_toNat, BitVec.setWidth_eq]

theorem registerBytes_getElem? (order : ByteOrder) (r : BusRegister) (v : BitVec r.width) {i : Nat}
    (h : i < r.bytes) : (registerBytes order r v)[i]? =
      some (v.extractLsb' (8 * (if order = .lowFirst then i else r.bytes - 1 - i)) 8) := by
  have inside : (if order = .lowFirst then i else r.bytes - 1 - i) < r.bytes := by
    split <;> omega
  rw [registerBytes, orderBytes_getElem? order _ (by simpa using h), valueBytes_length,
    valueBytes_getElem? _ _ _ inside, ofNat_div_pow_eq_extractLsb']

/-- A register of at most 8 bits is one byte, which has no order. -/
theorem registerBytes_of_width_le (order : ByteOrder) (r : BusRegister) (v : BitVec r.width) (h : r.width ≤ 8) :
    registerBytes order r v = [v.setWidth 8] := by
  have one : r.bytes = 1 := by
    have wide : 0 < r.width := by
      rcases r with _ | f
      · decide
      · cases f <;> decide
    unfold BusRegister.bytes
    omega
  cases order <;> simp [registerBytes, one, valueBytes, orderBytes, BitVec.ofNat_toNat]

/-- Settles O53. -/
theorem busBytesOfARegister : Obligations.BusBytesOfARegister := by
  intro order r v
  refine ⟨registerBytes_length order r v, bytesRegister_registerBytes order r v, fun i hi => ?_,
    registerBytes_of_width_le order r v, fun w => rfl⟩
  rw [registerBytes_length] at hi ⊢
  exact registerBytes_getElem? order r v hi

/-- Wire bit `k`'s mark and space stand side by side. -/
theorem sampleAt_bit {k : Nat} (h : k < 48) :
    sampleAt (3 + 2 * k) = some (.mark k) ∧ sampleAt (4 + 2 * k) = some (.space k) := by
  have markPos : (3 + 2 * k - 3) % 2 = 0 ∧ (3 + 2 * k - 3) / 2 = k := by omega
  have spacePos : ¬ (4 + 2 * k - 3) % 2 = 0 ∧ (4 + 2 * k - 3) / 2 = k := by omega
  constructor
  · simp (disch := omega) only [sampleAt, if_neg, if_pos, markPos, if_true]
  · simp (disch := omega) only [sampleAt, if_neg, spacePos, if_pos, if_false]

theorem sampleAt_isSome_iff (i : Nat) : (sampleAt i).isSome = true ↔ i < expectedLength := by
  rw [expectedLength_eq, sampleAt]
  split_ifs <;> simp <;> omega

/-- Settles O9. -/
theorem captureLayout : Obligations.CaptureLayout :=
  ⟨rfl, rfl, rfl, fun _ => sampleAt_bit, rfl, sampleAt_isSome_iff, rfl, rfl, rfl⟩

end Machine
end Sys2Proof
end

section
/-!
The two parities as XOR-linear functions (40_vendor_parity.md R101, R102, R105): flipping bits of the input flips the
parity of the flipped bits.
-/
namespace Sys2Proof.Machine

/-- R101's form of the fold, bit by bit. -/
theorem vendorParity_eq_nibbles (v : Half) : vendorParity v =
    v.extractLsb' 12 4 ^^^ v.extractLsb' 8 4 ^^^ v.extractLsb' 4 4 ^^^ v.extractLsb' 0 4 := by
  ext i hi
  rw [← BitVec.getLsbD_eq_getElem, vendorParity_bit v i hi]
  simp

/-- Settles O10. -/
theorem vendorParityIsNibbleXor : Obligations.VendorParityIsNibbleXor :=
  vendorParity_eq_nibbles

/-- The parity of a flipped vendor code is the parity flipped by the flips' own parity. -/
theorem vendorParity_xor (v e : Half) : vendorParity (v ^^^ e) = vendorParity v ^^^ vendorParity e := by
  simp only [vendorParity_eq_nibbles, BitVec.extractLsb'_xor]
  ac_rfl

theorem vendorParity_bit_flip {i : Nat} (hi : i < 16) : vendorParity (1#16 <<< i) = 1#4 <<< (i % 4) := by
  revert i
  decide

/-- Settles O11: two flips of one residue move the same bit of the nibble, and cancel. -/
theorem vendorParityBitFlip : Obligations.VendorParityBitFlip := by
  constructor
  · intro v i hi
    rw [vendorParity_xor, vendorParity_bit_flip hi]
  · intro v i j hi hj same
    rw [vendorParity_xor, vendorParity_xor, vendorParity_bit_flip hi, vendorParity_bit_flip hj, same,
      BitVec.xor_assoc, BitVec.xor_self, BitVec.xor_zero]

/-- The frame parity of three flipped bytes. -/
theorem frameParity_xor (g1 g2 g3 e1 e2 e3 : Byte) : frameParity (g1 ^^^ e1) (g2 ^^^ e2) (g3 ^^^ e3) =
    frameParity g1 g2 g3 ^^^ frameParity e1 e2 e3 := by
  simp only [frameParity]
  ac_rfl

/-- Settles O12: the flip of one byte is a flip of all three whose other two are 0. -/
theorem frameParityBitFlip : Obligations.FrameParityBitFlip := by
  intro g1 g2 g3 i _
  refine ⟨?_, ?_, ?_⟩
  · simpa [frameParity] using frameParity_xor g1 g2 g3 (1#8 <<< i) 0 0
  · simpa [frameParity] using frameParity_xor g1 g2 g3 0 (1#8 <<< i) 0
  · simpa [frameParity] using frameParity_xor g1 g2 g3 0 0 (1#8 <<< i)

end Sys2Proof.Machine
end

section
/-!
The frame on the wire (20_memory.md R41, R42, 41_encoder.md R128, R135): the bits the emitter sends, what a DECODE of
the ideal channel's answers gives, and which flags a flipped wire bit sets (42_decoder.md R152).
-/
namespace Sys2Proof.Machine

/-! ### The emitted bits -/

/-- The bits of a field are the bits of its low part, then those of its high part. -/
theorem bitsLsbFirst_extractLsb'_add {w : Nat} (x : BitVec w) (i m n : Nat) :
    bitsLsbFirst (x.extractLsb' i (m + n)) =
      bitsLsbFirst (x.extractLsb' i m) ++ bitsLsbFirst (x.extractLsb' (i + m) n) := by
  simp only [bitsLsbFirst, List.range_add, List.map_append, List.map_map]
  congr 1
  · refine List.map_congr_left fun k hk => ?_
    have hk := List.mem_range.mp hk
    simp (disch := omega) only [BitVec.getLsbD_extractLsb', decide_eq_true]
  · refine List.map_congr_left fun k hk => ?_
    have hk := List.mem_range.mp hk
    simp (disch := omega) only [Function.comp_apply, BitVec.getLsbD_extractLsb', decide_eq_true, Nat.add_assoc]

@[simp] theorem bitsLsbFirst_length {n : Nat} (x : BitVec n) : (bitsLsbFirst x).length = n := by
  simp [bitsLsbFirst]

section Frame
variable (v : Half) (addr : Address) (cmd : Byte)

theorem bitsLsbFirst_txWord0 : bitsLsbFirst (txWord0 v addr) =
    bitsLsbFirst v ++ bitsLsbFirst (groupG1 v addr) ++ bitsLsbFirst (groupG2 addr) := by
  have fields := bitsLsbFirst_extractLsb'_add (txWord0 v addr) 0 (16 + 8) 8
  rw [bitsLsbFirst_extractLsb'_add _ 0 16 8, txWord0_g0, txWord0_g1, txWord0_g2, BitVec.extractLsb'_eq_self] at fields
  exact fields

/-- WORD1's upper half is not sent (92_eei_decisions.md D20). -/
theorem bitsLsbFirst_txWord1 : bitsLsbFirst (txWord1 v addr cmd) =
    bitsLsbFirst cmd ++ bitsLsbFirst (groupG4 v addr cmd) ++ bitsLsbFirst (0 : Half) := by
  have fields := bitsLsbFirst_extractLsb'_add (txWord1 v addr cmd) 0 (8 + 8) 16
  rw [bitsLsbFirst_extractLsb'_add _ 0 8 8, txWord1_g3, txWord1_g4, txWord1_unsent, BitVec.extractLsb'_eq_self]
    at fields
  exact fields

theorem emittedBits_eq_wireBits :
    emittedBits (txWord0 v addr) (txWord1 v addr cmd) 48 = wireBits v addr cmd := by
  have sent : bitsLsbFirst (txWord0 v addr) ++ bitsLsbFirst (txWord1 v addr cmd) =
      wireBits v addr cmd ++ bitsLsbFirst (0 : Half) := by
    simp only [bitsLsbFirst_txWord0, bitsLsbFirst_txWord1, wireBits, List.append_assoc]
  rw [emittedBits, sent]
  exact List.take_left' (by simp [wireBits])

theorem wireBits_eq_frameBits : wireBits v addr cmd = bitsLsbFirst (frameValue v addr cmd) := by
  have fields := bitsLsbFirst_extractLsb'_add (frameValue v addr cmd) 0 (16 + 8 + 8 + 8) 8
  rw [bitsLsbFirst_extractLsb'_add _ 0 (16 + 8 + 8) 8, bitsLsbFirst_extractLsb'_add _ 0 (16 + 8) 8,
    bitsLsbFirst_extractLsb'_add _ 0 16 8, frameValue_vendor, frameValue_g1, frameValue_g2, frameValue_g3,
    frameValue_g4, BitVec.extractLsb'_eq_self] at fields
  exact fields.symm

end Frame

/-- The operand values are truncations (30_encoding.md R66, R67). -/
theorem addressOperand_eq_setWidth (addrIn : Half) : addressOperand addrIn = addrIn.setWidth 12 :=
  (BitVec.setWidth_eq_extractLsb' (by decide)).symm

theorem commandOperand_eq_setWidth (cmdIn : Half) : commandOperand cmdIn = cmdIn.setWidth 8 :=
  (BitVec.setWidth_eq_extractLsb' (by decide)).symm

/-- Settles O20: the two words hold G0 to G4 in turn, as the frame value does. -/
theorem emittedBitsAreTheFrame : Obligations.EmittedBitsAreTheFrame := by
  intro v a c r s
  obtain ⟨t, hexec, hhist, -, -⟩ := exec_completes (.encode v a c r) s
  refine ⟨t, _, _, hexec, hhist, ?_⟩
  rw [addressOperand_eq_setWidth, commandOperand_eq_setWidth, emittedBits_eq_wireBits]
  exact ⟨rfl, wireBits_eq_frameBits ..⟩

/-! ### A DECODE over the ideal channel -/

/-- The parity nibble a frame carries, against its vendor code's: 0 where they agree. -/
def vendorSyndrome (f : Frame) : Nibble := f.extractLsb' 16 4 ^^^ vendorParity (f.extractLsb' 0 16)

/-- The frame parity a frame carries, against that of its three bytes: 0 where they agree. -/
def frameSyndrome (f : Frame) : Byte :=
  f.extractLsb' 40 8 ^^^ frameParity (f.extractLsb' 16 8) (f.extractLsb' 24 8) (f.extractLsb' 32 8)

/-- A value is not another exactly when their XOR is not 0. -/
theorem bne_eq_xor_bne_zero {n : Nat} (x y : BitVec n) : (x != y) = (x ^^^ y != 0) := by
  rw [Bool.eq_iff_iff, bne_iff_ne, bne_iff_ne]
  exact (not_congr BitVec.xor_eq_zero_iff).symm

/-- The ideal channel passes every stage, and the fields stand at their places in the frame (R70, R75). -/
theorem decodeOutcome_idealCapture (f : Frame) (rp : Bool) : decodeOutcome (idealCapture f rp) =
    { RespSet.empty with
      status := some .ok, variant := some (classify (f.extractLsb' 0 16)).1,
      vendor := some (f.extractLsb' 0 16), addr := some (f.extractLsb' 20 12), cmd := some (f.extractLsb' 32 8),
      nbits := some 48, vpf := some (vendorSyndrome f != 0), fpf := some (frameSyndrome f != 0), rpt := some rp,
      xtra := some ((classify (f.extractLsb' 0 16)).1 == .generic),
      extra := if (classify (f.extractLsb' 0 16)).1 = .generic then some (f.extractLsb' 0 16) else none } := by
  have field (i n : Nat) (h : i + n ≤ 32) : (f.extractLsb' 16 32).extractLsb' i n = f.extractLsb' (16 + i) n :=
    extractLsb'_extractLsb' f 16 32 i n h
  rw [decodeOutcome_of_chunks rfl rfl rfl rfl, decodeResult_eq]
  rw [bne_eq_xor_bne_zero (rxParityNibble _), bne_eq_xor_bne_zero (rxFrameParity _)]
  simp only [rxAddress, rxCommand, rxParityNibble, rxFrameParity, rxG1, rxG2, vendorSyndrome, frameSyndrome]
  rw [field 4 12 (by decide), field 16 8 (by decide), field 0 4 (by decide), field 24 8 (by decide),
    field 0 8 (by decide), field 8 8 (by decide)]
  rfl

section Frame
variable (v : Half) (addr : Address) (cmd : Byte)

theorem frameValue_parity : (frameValue v addr cmd).extractLsb' 16 4 = vendorParity v := by
  rw [← groupG1_low v addr, ← frameValue_g1 v addr cmd, extractLsb'_extractLsb' _ _ _ _ _ (by decide)]

theorem frameValue_addr : (frameValue v addr cmd).extractLsb' 20 12 = addr := by
  have low : (frameValue v addr cmd).extractLsb' 20 4 = addr.extractLsb' 0 4 := by
    rw [← groupG1_high v addr, ← frameValue_g1 v addr cmd, extractLsb'_extractLsb' _ _ _ _ _ (by decide)]
  have high : (frameValue v addr cmd).extractLsb' 24 8 = addr.extractLsb' 4 8 := by
    rw [frameValue_g2, groupG2_eq]
  calc (frameValue v addr cmd).extractLsb' 20 12
      = (frameValue v addr cmd).extractLsb' 24 8 ++ (frameValue v addr cmd).extractLsb' 20 4 :=
        (BitVec.extractLsb'_append_extractLsb'_eq_extractLsb' (len₁ := 4) (len₂ := 8) rfl).symm
    _ = addr.extractLsb' 4 8 ++ addr.extractLsb' 0 4 := by rw [high, low]
    _ = addr := BitVec.extractLsb'_append_extractLsb'

/-- The encoder's frame agrees with both its parities. -/
theorem vendorSyndrome_frameValue : vendorSyndrome (frameValue v addr cmd) = 0 := by
  rw [vendorSyndrome, frameValue_parity, frameValue_vendor, BitVec.xor_self]
  rfl

theorem frameSyndrome_frameValue : frameSyndrome (frameValue v addr cmd) = 0 := by
  rw [frameSyndrome, frameValue_g1, frameValue_g2, frameValue_g3, frameValue_g4, groupG4, BitVec.xor_self]
  rfl

/-- A byte that stays inside 32 bits stands at the same place in 48. -/
theorem setWidth_shiftLeft_setWidth (g : Byte) {k : Nat} (h : k ≤ 24) :
    (g.setWidth 32 <<< k).setWidth 48 = g.setWidth 48 <<< k := by
  ext i hi
  by_cases inside : i < 32
  · simp [inside]
  · have above : g.getLsbD (i - k) = false := BitVec.getLsbD_of_ge g _ (by omega)
    simp [inside, above]

/-- The frame value is the 48 bits of the two words (30_encoding.md R74). -/
theorem frameValue_eq_txWords : frameValue v addr cmd =
    (txWord0 v addr).setWidth 48 ||| ((txWord1 v addr cmd).setWidth 48 <<< 32) := by
  simp only [frameValue, txWord0, txWord1, BitVec.setWidth_or, BitVec.shiftLeft_or_distrib]
  rw [setWidth_shiftLeft_setWidth _ (by decide), setWidth_shiftLeft_setWidth _ (by decide),
    setWidth_shiftLeft_setWidth _ (by decide), ← BitVec.shiftLeft_add]
  simp [BitVec.or_assoc]

end Frame

/-- Settles O21: the ideal channel carries the encoder's frame, whose syndromes are 0. -/
theorem roundTrip : Obligations.RoundTrip := by
  intro v a c r rp s
  obtain ⟨t, hexec, -, hrsp, hframe⟩ := exec_completes (.encode v a c r) s
  refine ⟨t, _, _, _, hexec, by rw [hrsp]; rfl, by rw [hrsp]; rfl, exec_eq .decode _, ?_⟩
  rw [← hframe.requester]
  refine (exec_rspOf .decode _).trans ?_
  rw [← frameValue_eq_txWords]
  refine (decodeOutcome_idealCapture _ rp).trans ?_
  rw [frameValue_vendor, frameValue_addr, frameValue_g3, vendorSyndrome_frameValue, frameSyndrome_frameValue,
    addressOperand_eq_setWidth, commandOperand_eq_setWidth]
  rfl

/-! ### Flipped wire bits -/

/-- The syndromes see the flips alone, not the frame they are made in. -/
theorem vendorSyndrome_xor (f e : Frame) : vendorSyndrome (f ^^^ e) = vendorSyndrome f ^^^ vendorSyndrome e := by
  simp only [vendorSyndrome, BitVec.extractLsb'_xor, vendorParity_xor]
  ac_rfl

theorem frameSyndrome_xor (f e : Frame) : frameSyndrome (f ^^^ e) = frameSyndrome f ^^^ frameSyndrome e := by
  simp only [frameSyndrome, BitVec.extractLsb'_xor, frameParity_xor]
  ac_rfl

/-- Wire bits 0 to 19 are the vendor code and its parity nibble. -/
theorem vendorSyndrome_flip : ∀ k, k < 48 → (vendorSyndrome (1#48 <<< k) != 0) = decide (k < 20) := by
  decide

/-- Wire bits 16 to 47 are G1, G2, G3 and their frame parity. -/
theorem frameSyndrome_flip : ∀ k, k < 48 → (frameSyndrome (1#48 <<< k) != 0) = decide (16 ≤ k) := by
  decide

/-- Two codes of the table differ in more than one bit (R152). -/
theorem lookupVendor_flip_of_mem : ∀ e ∈ vendorTable, ∀ k, k < 16 →
    lookupVendor (e.code ^^^ (1#16 <<< k)) vendorTable = none := by
  decide

theorem exists_mem_of_lookupVendor_ne_none {v : Half} {table : List VendorEntry}
    (h : lookupVendor v table ≠ none) : ∃ e ∈ table, e.code = v := by
  induction table with
  | nil => exact absurd rfl h
  | cons e es ih =>
    by_cases heq : v = e.code
    · exact ⟨e, List.mem_cons_self, heq.symm⟩
    · rw [lookupVendor, if_neg heq] at h
      obtain ⟨e', hmem, hcode⟩ := ih h
      exact ⟨e', List.mem_cons_of_mem e hmem, hcode⟩

/-- A code the table does not list is Generic (40_vendor_parity.md R107). -/
theorem classify_of_lookupVendor_none {v : Half} (h : lookupVendor v vendorTable = none) :
    classify v = (.generic, some v) := by
  rw [classify, h]

/-- A table code with a flipped bit is Generic (R152). -/
theorem classify_flip {v : Half} (table : (classify v).1 ≠ .generic) {k : Nat} (hk : k < 16) :
    (classify (v ^^^ (1#16 <<< k))).1 = .generic := by
  have listed : lookupVendor v vendorTable ≠ none := fun h => table (by rw [classify_of_lookupVendor_none h])
  obtain ⟨e, hmem, rfl⟩ := exists_mem_of_lookupVendor_ne_none listed
  rw [classify_of_lookupVendor_none (lookupVendor_flip_of_mem e hmem k hk)]

/-- Settles O29: a flipped frame's syndromes are the flip's, its fields are read at their places. -/
theorem singleBitErrorFlags : Obligations.SingleBitErrorFlags := by
  intro s v addr cmd k rp hk
  obtain ⟨t, hexec, -, hrsp, -⟩ := exec_completes .decode
    { s with capture := idealCapture (frameValue v addr cmd ^^^ (1#48 <<< k)) rp }
  replace hrsp : t.rspOf s.requester = _ := hrsp.trans (decodeOutcome_idealCapture _ rp)
  have vpf : (vendorSyndrome (frameValue v addr cmd ^^^ 1#48 <<< k) != 0) = decide (k < 20) := by
    rw [vendorSyndrome_xor, vendorSyndrome_frameValue, zero_xor, vendorSyndrome_flip k hk]
  have fpf : (frameSyndrome (frameValue v addr cmd ^^^ 1#48 <<< k) != 0) = decide (16 ≤ k) := by
    rw [frameSyndrome_xor, frameSyndrome_frameValue, zero_xor, frameSyndrome_flip k hk]
  rw [vpf, fpf] at hrsp
  refine ⟨t, hexec, ?_⟩
  rw [hrsp]
  refine ⟨rfl, rfl, rfl, rfl, rfl, rfl, fun hvendor htable => ?_⟩
  have flip : (1#48 <<< k).extractLsb' 0 16 = 1#16 <<< k := by
    rw [← BitVec.setWidth_eq_extractLsb' (by decide), BitVec.setWidth_shiftLeft_of_le (by decide)]
    rfl
  rw [BitVec.extractLsb'_xor, frameValue_vendor, flip, classify_flip htable hvendor]

end Sys2Proof.Machine
end

section
/-!
More of how a DECODE ends (42_decoder.md): the two chunk failures (R143, R146), the two forms of its register set, the
queries made as the first of the five (R153), the repeat answer (R150), and that a later DECODE replaces all of the
register set (R154).
-/
namespace Sys2Proof
namespace Machine

/-- Settles O24: the third stage fails. -/
theorem decodeVendorChunkFailure : Obligations.DecodeVendorChunkFailure :=
  fun _ hlen hheader hvendor => exec_decode_failsWith
    (by simp [decodeEvents, hlen, hheader, hvendor]) (by simp [decodeOutcome, hlen, hheader, hvendor])

/-- Settles O25: the fourth stage fails. -/
theorem decodeRemainderFailure : Obligations.DecodeRemainderFailure :=
  fun _ _ hlen hheader hvendor hrest => exec_decode_failsWith
    (by simp [decodeEvents, hlen, hheader, hvendor, hrest]) (by simp [decodeOutcome, hlen, hheader, hvendor, hrest])

/-- The five queries of a DECODE, in their order (R153). -/
def fiveQueries (a : Nat) (c : Capture) : List Event :=
  [.qLen a c.len, .qHeader a Config.proto c.header, .qBits a Config.proto 16 3 c.vendorBits,
    .qBits a Config.proto 32 35 c.restBits, .qRepeat a Config.proto.repeatPeriod c.repeatOk]

theorem decodeEvents_prefix (a : Nat) (c : Capture) : decodeEvents a c <+: fiveQueries a c := by
  unfold decodeEvents
  split_ifs <;> simp [fiveQueries]

/-- All five queries are made exactly where no stage fails. -/
theorem decodeEvents_length_eq_five_iff (a : Nat) (c : Capture) :
    (decodeEvents a c).length = 5 ↔ decodeStatus c = .ok := by
  rw [decodeEvents_length, decodeStatus]
  split_ifs <;> simp

theorem decodeEvents_length_pos (a : Nat) (c : Capture) : 1 ≤ (decodeEvents a c).length := by
  rw [decodeEvents_length]
  split_ifs <;> decide

/-- A DECODE leaves the result of its two chunks, or a failure's register set. -/
theorem decodeOutcome_result_or_failure (c : Capture) :
    (∃ v r, decodeOutcome c = decodeResult v r c.repeatOk) ∨
    (∃ st, st ≠ .ok ∧ decodeOutcome c = failureResult st) := by
  by_cases hpasses : c.Passes
  · obtain ⟨hlen, hheader, hvendor, hrest⟩ := hpasses
    obtain ⟨v, hv⟩ := Option.isSome_iff_exists.mp hvendor
    obtain ⟨r, hr⟩ := Option.isSome_iff_exists.mp hrest
    exact .inl ⟨v, r, decodeOutcome_of_chunks hlen hheader hv hr⟩
  · refine .inr ⟨decodeStatus c, ?_, decodeOutcome_of_failed hpasses⟩
    rw [decodeStatus_of_failed hpasses]
    split_ifs <;> decide

/-- A register set but for RPT, the field R150 lets the repeat answer change. -/
def RespSet.withoutRepeat (r : RespSet) : RespSet := { r with rpt := none }

/-- The stages before the repeat query do not see its answer. -/
theorem decodeOutcome_withoutRepeat (c : Capture) (rp : Bool) :
    (decodeOutcome { c with repeatOk := rp }).withoutRepeat = (decodeOutcome c).withoutRepeat := by
  simp only [decodeOutcome]
  split
  · rfl
  · split
    · rfl
    · cases c.vendorBits <;> cases c.restBits <;> rfl

theorem decodeOutcome_rpt {c : Capture} (hok : (decodeOutcome c).status = some .ok) :
    (decodeOutcome c).rpt = some c.repeatOk := by
  obtain ⟨v, r, hresult⟩ | ⟨st, hst, hfail⟩ := decodeOutcome_result_or_failure c
  · rw [hresult]
    rfl
  · rw [hfail] at hok
    exact absurd (Option.some.inj hok) hst

/-- Settles O28: the two register sets are the outcomes of the two captures. -/
theorem repeatAnswerIsInformational : Obligations.RepeatAnswerIsInformational := by
  intro s c rp
  obtain ⟨t, hexec, -, hrsp, -⟩ := exec_completes .decode { s with capture := c }
  obtain ⟨t', hexec', -, hrsp', -⟩ := exec_completes .decode { s with capture := { c with repeatOk := rp } }
  refine ⟨t, t', hexec, hexec', ?_, fun hok => ?_⟩
  · change (t.rspOf s.requester).withoutRepeat = (t'.rspOf s.requester).withoutRepeat
    rw [hrsp, hrsp']
    exact (decodeOutcome_withoutRepeat c rp).symm
  · rw [hrsp'] at hok ⊢
    exact decodeOutcome_rpt hok

/-- A second write of a requester's set replaces the first. -/
theorem writeRsp_writeRsp (a : Nat) {r : RespSet} (h : r ≠ .empty) (r' : RespSet) (f : RespFile) :
    writeRsp a r' (writeRsp a r f) = writeRsp a r' f := by
  induction f with
  | nil => simp [writeRsp, rspEntry, h]
  | cons e es ih =>
    by_cases hlt : a < e.1
    · simp [writeRsp, rspEntry, h, hlt]
    · by_cases heq : a = e.1
      · simp [writeRsp, rspEntry, h, heq]
      · simp [writeRsp, hlt, heq, ih]

/-- Settles O31: the later register set replaces the earlier one in the file, and nothing else of it is used. -/
theorem failedDecodeLeavesNoTraceInTheNext : Obligations.FailedDecodeLeavesNoTraceInTheNext := by
  intro s c c'
  refine ⟨_, _, _, exec_eq .decode _, exec_eq .decode _, exec_eq .decode _, ?_⟩
  exact writeRsp_writeRsp s.requester (opResult_ne_empty .decode c) (opResult .decode c') s.rsp

end Machine

open Machine in
/-- Settles O30: the queries made are R153's, cut off after the failing stage's own. -/
theorem queriesInOrder : Obligations.QueriesInOrder := by
  intro s
  obtain ⟨t, hexec, hhist, hrsp, -⟩ := exec_completes .decode s
  refine ⟨t, _, hexec, hhist, decodeEvents_length_pos s.requester s.capture,
    decodeEvents_prefix s.requester s.capture, ?_⟩
  replace hrsp : t.rspOf s.requester = decodeOutcome s.capture := hrsp
  rw [hrsp, decodeOutcome_status, Option.some.injEq]
  exact decodeEvents_length_eq_five_iff s.requester s.capture

end Sys2Proof
end

section
/-!
Operations and their requesters (10_state.md R28 to R31, 20_memory.md R45, R49): which fields an operation writes, what
its result depends on, and two operations after each other, of one requester or of two.
-/
namespace Sys2Proof.Machine

/-! ### The fields an operation writes -/

/-- The fields that hold a value in the register set an operation leaves are R28's. -/
def WritesItsFields (i : Instr) (r : RespSet) : Prop :=
  ∀ f, (r.get f).isSome =
    writesField (r.status == some .ok) (r.vendor.any fun v => (classify v).1 == .generic) i f

theorem decodeResult_writesItsFields (v : Half) (r : TxWord) (rp : Bool) :
    WritesItsFields .decode (decodeResult v r rp) := by
  intro f
  cases f
  case extra => exact hasExtraInfo_classify v
  all_goals rfl

theorem failureResult_writesItsFields {st : Status} (h : st ≠ .ok) : WritesItsFields .decode (failureResult st) := by
  intro f
  rw [failureResult_get_isSome]
  cases st
  case ok => exact absurd rfl h
  all_goals cases f <;> rfl

theorem classifyResult_writesItsFields (v : Half) : WritesItsFields (.classify v) (classifyResult v) := by
  intro f
  cases f
  case extra => exact hasExtraInfo_classify v
  all_goals rfl

/-- R28's table, row by row. -/
theorem opResult_writesItsFields (i : Instr) (cap : Capture) : WritesItsFields i (opResult i cap) := by
  cases i
  case decode =>
    change WritesItsFields .decode (decodeOutcome cap)
    obtain ⟨v, r, hresult⟩ | ⟨st, hst, hfail⟩ := decodeOutcome_result_or_failure cap
    · rw [hresult]
      exact decodeResult_writesItsFields v r cap.repeatOk
    · rw [hfail]
      exact failureResult_writesItsFields hst
  case classify v => exact classifyResult_writesItsFields v
  all_goals
    intro f
    cases f <;> rfl

/-- Settles O38. -/
theorem completedOperationReplacesTheSet : Obligations.CompletedOperationReplacesTheSet := by
  intro i s
  obtain ⟨t, hexec, -, hrsp, hframe⟩ := exec_completes i s
  refine ⟨t, hexec, hframe, fun f => ?_⟩
  rw [State.readable, hrsp]
  exact opResult_writesItsFields i s.capture f

/-! ### The flags and their packed view -/

/-- Only a DECODE writes VPF, FPF and RPT, and only a successful one (R31). -/
theorem writesField_decodeFlag {f : Field} (hf : f = .vpf ∨ f = .fpf ∨ f = .rpt) (ok unknown : Bool) (i : Instr) :
    writesField ok unknown i f = true ↔ i = .decode ∧ ok = true := by
  obtain rfl | rfl | rfl := hf <;> cases i <;> simp [writesField]

theorem writesField_xtra (ok unknown : Bool) (i : Instr) :
    writesField ok unknown i .xtra = true ↔ (i = .decode ∧ ok = true) ∨ ∃ v, i = .classify v := by
  cases i <;> simp [writesField]

/-- A flag can be read where it holds a value. -/
theorem flags_get_isSome (r : RespSet) :
    (r.get .vpf).isSome = r.vpf.isSome ∧ (r.get .fpf).isSome = r.fpf.isSome ∧
      (r.get .rpt).isSome = r.rpt.isSome ∧ (r.get .xtra).isSome = r.xtra.isSome :=
  ⟨Option.isSome_map, Option.isSome_map, Option.isSome_map, Option.isSome_map⟩

/-- FLAGS is defined only where all four flags hold values (R31). -/
theorem flags_isSome_iff (r : RespSet) : r.flags.isSome = true ↔
    r.xtra.isSome = true ∧ r.rpt.isSome = true ∧ r.fpf.isSome = true ∧ r.vpf.isSome = true := by
  obtain hx | ⟨x, hx⟩ := Option.eq_none_or_eq_some r.xtra
  · simp [RespSet.flags, hx]
  obtain hrp | ⟨rp, hrp⟩ := Option.eq_none_or_eq_some r.rpt
  · simp [RespSet.flags, hrp]
  obtain hf | ⟨f, hf⟩ := Option.eq_none_or_eq_some r.fpf
  · simp [RespSet.flags, hf]
  obtain hv | ⟨v, hv⟩ := Option.eq_none_or_eq_some r.vpf
  · simp [RespSet.flags, hv]
  simp [RespSet.flags, hx, hrp, hf, hv]

/-- FLAGS has VPF in bit 0, then FPF, RPT and XTRA (R31). -/
theorem flags_bits {r : RespSet} {n : Nibble} (h : r.flags = some n) :
    r.vpf = some (n.getLsbD 0) ∧ r.fpf = some (n.getLsbD 1) ∧ r.rpt = some (n.getLsbD 2) ∧
      r.xtra = some (n.getLsbD 3) := by
  have packed : ∀ x rp f v : Bool,
      let n : Nibble := BitVec.ofBool x ++ (BitVec.ofBool rp ++ (BitVec.ofBool f ++ BitVec.ofBool v))
      v = n.getLsbD 0 ∧ f = n.getLsbD 1 ∧ rp = n.getLsbD 2 ∧ x = n.getLsbD 3 := by decide
  unfold RespSet.flags at h
  split at h
  · next x rp f v hx hrp hf hv =>
    obtain rfl := Option.some.inj h
    obtain ⟨h0, h1, h2, h3⟩ := packed x rp f v
    exact ⟨hv.trans (congrArg some h0), hf.trans (congrArg some h1), hrp.trans (congrArg some h2),
      hx.trans (congrArg some h3)⟩
  · cases h

/-- Settles O45: each flag holds a value exactly where R28's table writes its field. -/
theorem flagsAndTheirPackedView : Obligations.FlagsAndTheirPackedView := by
  refine ⟨fun i s => ?_, fun _ _ => flags_bits⟩
  obtain ⟨t, hexec, -, hrsp, -⟩ := exec_completes i s
  refine ⟨t, hexec, ?_⟩
  have written : WritesItsFields i (t.rspOf s.requester) := hrsp ▸ opResult_writesItsFields i s.capture
  generalize t.rspOf s.requester = r at written
  have flag {f : Field} (hf : f = .vpf ∨ f = .fpf ∨ f = .rpt) :
      (r.get f).isSome = true ↔ i = .decode ∧ r.status = some .ok := by
    rw [written f, writesField_decodeFlag hf, beq_iff_eq]
  have vpf := flag (f := .vpf) (.inl rfl)
  have fpf := flag (f := .fpf) (.inr (.inl rfl))
  have rpt := flag (f := .rpt) (.inr (.inr rfl))
  have xtra : (r.get .xtra).isSome = true ↔ (i = .decode ∧ r.status = some .ok) ∨ ∃ v, i = .classify v := by
    rw [written .xtra, writesField_xtra, beq_iff_eq]
  obtain ⟨hvpf, hfpf, hrpt, hxtra⟩ := flags_get_isSome r
  rw [hvpf] at vpf
  rw [hfpf] at fpf
  rw [hrpt] at rpt
  rw [hxtra] at xtra
  refine ⟨vpf, fpf, rpt, xtra, ?_⟩
  rw [flags_isSome_iff, vpf, fpf, rpt, xtra]
  tauto

/-! ### What a result depends on -/

/-- DECODE alone reads the oracle's answers (R45). -/
theorem opEvents_congr {i : Instr} {cap cap' : Capture} (h : i = .decode → cap = cap') (a : Nat) :
    opEvents i a cap = opEvents i a cap' := by
  cases i
  case decode => rw [h rfl]
  all_goals rfl

theorem opResult_congr {i : Instr} {cap cap' : Capture} (h : i = .decode → cap = cap') :
    opResult i cap = opResult i cap' := by
  cases i
  case decode => rw [h rfl]
  all_goals rfl

/-- Settles O39. -/
theorem resultDependsOnRequestAndOracleAlone : Obligations.ResultDependsOnRequestAndOracleAlone := by
  intro i s s' same
  obtain ⟨t, hexec, hhist, hrsp, -⟩ := exec_completes i s
  obtain ⟨t', hexec', hhist', hrsp', -⟩ := exec_completes i s'
  refine ⟨t, t', _, _, hexec, hexec', ?_, hhist, hhist', fun hreq => ?_⟩
  · rw [hrsp, hrsp', opResult_congr same]
  · rw [hreq, opEvents_congr same]

/-! ### Two operations after each other -/

/-- What requester `a`'s operation and then another requester `b`'s leave: each its own result, everyone else's set as
it was, and the two lists of events after each other. -/
theorem exec_accept_exec_accept (s : State) {a b : Nat} (i j : Instr) (ca cb : Capture) (h : a ≠ b) :
    ∃ t u, exec i (s.accept a ca) = .next t ∧ exec j (t.accept b cb) = .next u ∧
      u.rspOf a = opResult i ca ∧ u.rspOf b = opResult j cb ∧
      (∀ q, q ≠ a → q ≠ b → u.rspOf q = s.rspOf q) ∧ u.refused = s.refused ∧
      u.hist = s.hist ++ (opEvents i a ca ++ opEvents j b cb) := by
  obtain ⟨t, hexec, hhist, hrsp, hframe⟩ := exec_completes i (s.accept a ca)
  obtain ⟨u, hexec', hhist', hrsp', hframe'⟩ := exec_completes j (t.accept b cb)
  refine ⟨t, u, hexec, hexec', ?_, hrsp', fun q hqa hqb => ?_, hframe'.refused.trans hframe.refused, ?_⟩
  · exact (hframe'.others a h).trans hrsp
  · exact (hframe'.others q hqb).trans (hframe.others q hqa)
  · rw [hhist', accept_hist, hhist, accept_hist, List.append_assoc]
    rfl

/-- Settles O40: both orders leave the two results, and the two lists of events in one order or the other. -/
theorem interleavingReordersOnlyHistory : Obligations.InterleavingReordersOnlyHistory := by
  intro s a b i j ca cb h
  obtain ⟨t, u, hi, hj, ha, hb, hothers, hrefused, hhist⟩ := exec_accept_exec_accept s i j ca cb h
  obtain ⟨t', u', hj', hi', hb', ha', hothers', hrefused', hhist'⟩ := exec_accept_exec_accept s j i cb ca h.symm
  refine ⟨t, u, t', u', hi, hj, hj', hi', fun q => ?_, hrefused.trans hrefused'.symm, ?_⟩
  · by_cases hqa : q = a
    · rw [hqa, ha, ha']
    by_cases hqb : q = b
    · rw [hqb, hb, hb']
    rw [hothers q hqa hqb, hothers' q hqb hqa]
  · rw [hhist, hhist']
    exact List.perm_append_comm.append_left s.hist

/-- Settles O41: the second encode's requester is the first's, so its `Emit` and its result are the same. -/
theorem encodingTwiceEmitsTwice : Obligations.EncodingTwiceEmitsTwice := by
  intro i s hrep
  rw [repeatField?_eq, Option.isSome_map] at hrep
  obtain ⟨⟨v, a, c, r⟩, hops⟩ := Option.isSome_iff_exists.mp hrep
  obtain ⟨t, hexec, hhist, hrsp, hframe⟩ := exec_completes i s
  obtain ⟨u, hexec', hhist', hrsp', -⟩ := exec_completes i t
  rw [hframe.requester, opResult_of_encodeOperands hops] at hrsp'
  rw [opResult_of_encodeOperands hops] at hrsp
  rw [opEvents_of_encodeOperands hops] at hhist hhist'
  refine ⟨t, u, emitEvent s.requester v (addressOperand a) (commandOperand c) (repeatOperand r), hexec, hexec', rfl,
    ?_, hrsp'.trans hrsp.symm⟩
  rw [hhist', hhist, hframe.requester, List.append_assoc]
  rfl

end Sys2Proof.Machine
end

section
/-!
Steps (10_state.md R22, R29, R32, R33, R35, 20_memory.md R44, R46, R49): what a step keeps, when it serves nothing, and
requests and reads step by step.
-/
namespace Sys2Proof.Machine

/-- Settles O50. -/
theorem idleStepChangesNothing : Obligations.IdleStepChangesNothing := by
  intro s hin
  rw [step, serveNext, hin]

/-- Settles O47: no register set is listed. -/
theorem powerOnState : Obligations.PowerOnState :=
  ⟨fun _ f => RespSet.empty_get f, rfl, rfl⟩

/-- Settles O55: the reset changes RSP and HIST alone. -/
theorem resetKeepsWaitingInputs : Obligations.ResetKeepsWaitingInputs :=
  fun _ _ hin => ⟨_, step_hostReset hin, rfl, rfl, rfl, rfl⟩

/-- Settles O48, along the four ways a step can answer a next state. -/
theorem historyOnlyGrows : Obligations.HistoryOnlyGrows := by
  intro s t hstep
  obtain ⟨-, rfl⟩ | ⟨rest, -, rfl⟩ | ⟨a, f, rest, v, -, -, -, rfl⟩ | ⟨a, w, cap, rest, i, -, -, -, rfl⟩ :=
    step_next hstep
  · exact List.prefix_rfl
  · exact List.prefix_append _ _
  · exact List.prefix_rfl
  · exact List.prefix_append _ _

/-! ### Refusals -/

theorem forRequester_of_refused {s : State} (h : s.refused = true) (a : Nat)
    (act : Host.Outcome State Fault Refusal) : forRequester a s act = .refused .afterRefusal :=
  if_pos h

theorem forRequester_of_absent {s : State} {a : Nat} (h : s.refused = false) (ha : Config.numRequesters ≤ a)
    (act : Host.Outcome State Fault Refusal) : forRequester a s act = .refused (.noSuchRequester a) := by
  simp [forRequester, h, ha]

/-- A step whose oldest input is requester `a`'s is one that must be served for `a`. -/
theorem step_forRequester {s : State} {a : Nat} {w : Req} {cap : Capture} {f : Field} {rest : List Input}
    (hin : s.inputs = .request a w cap :: rest ∨ s.inputs = .read a f :: rest) :
    ∃ act, step s = forRequester a { s with inputs := rest } act := by
  obtain hin | hin := hin
  · exact ⟨serveRequest a w cap { s with inputs := rest }, by rw [step, serveNext, hin]; rfl⟩
  · exact ⟨State.readField { s with inputs := rest } a f, by rw [step, serveNext, hin]; rfl⟩

/-- Settles O36. -/
theorem noServiceAfterARefusal : Obligations.NoServiceAfterARefusal := by
  intro s a w cap f rest hrefused hin
  obtain ⟨act, hstep⟩ := step_forRequester hin
  exact hstep.trans (forRequester_of_refused hrefused a act)

/-- Settles O37. -/
theorem noServiceForAbsentRequester : Obligations.NoServiceForAbsentRequester := by
  intro s a w cap f rest hrefused habsent hin
  obtain ⟨act, hstep⟩ := step_forRequester hin
  exact hstep.trans (forRequester_of_absent hrefused habsent act)

/-- What can be refused for a requester: anything, by a check of its own, or the action itself. -/
theorem forRequester_refused {s : State} {a : Nat} {act : Host.Outcome State Fault Refusal} {r : Refusal}
    (h : forRequester a s act = .refused r) : r = .afterRefusal ∨ r = .noSuchRequester a ∨ act = .refused r := by
  unfold forRequester at h
  split_ifs at h
  · exact .inl (Host.Outcome.refused.inj h).symm
  · exact .inr (.inr h)
  · exact .inr (.inl (Host.Outcome.refused.inj h).symm)

/-- A request is refused for its word alone, and the refusal carries the state with REFUSED set (R176). -/
theorem serveRequest_refused {s : State} {a : Nat} {w : Req} {cap : Capture} {r : Refusal}
    (h : serveRequest a w cap s = .refused r) :
    r = .reservedBits a w s.refuse ∨ r = .reservedOperation a w s.refuse := by
  cases hd : decodeReq w with
  | ok i =>
    rw [serveRequest_ok hd, exec_eq] at h
    cases h
  | error e =>
    rw [serveRequest_error hd] at h
    cases e with
    | reservedBits _ => exact .inl (Host.Outcome.refused.inj h).symm
    | reservedOp _ => exact .inr (Host.Outcome.refused.inj h).symm

/-- Every way a step can be refused. -/
theorem step_refused {s : State} {r : Refusal} (h : step s = .refused r) :
    r = .afterRefusal ∨ (∃ a, r = .noSuchRequester a) ∨
    ∃ a w cap rest, s.inputs = .request a w cap :: rest ∧
      (r = .reservedBits a w (State.refuse { s with inputs := rest }) ∨
        r = .reservedOperation a w (State.refuse { s with inputs := rest })) := by
  cases hin : s.inputs with
  | nil =>
    rw [idleStepChangesNothing s hin] at h
    cases h
  | cons inp rest =>
    rw [step, serveNext, hin] at h
    cases inp with
    | reset => cases h
    | read a f =>
      obtain hr | hr | hact := forRequester_refused h
      · exact .inl hr
      · exact .inr (.inl ⟨a, hr⟩)
      · obtain ⟨v, -, he⟩ | ⟨-, he⟩ := readField_cases { s with inputs := rest } a f
        · rw [he] at hact
          cases hact
        · rw [he] at hact
          cases hact
    | request a w cap =>
      obtain hr | hr | hact := forRequester_refused h
      · exact .inl hr
      · exact .inr (.inl ⟨a, hr⟩)
      · exact .inr (.inr ⟨a, w, cap, rest, rfl, serveRequest_refused hact⟩)

/-- The state a refusal says the refused request leaves (60_exceptions.md R176; log 5). -/
def Refusal.after? : Refusal → Option State
  | .reservedBits _ _ u | .reservedOperation _ _ u => some u
  | .notModelled _ | .afterRefusal | .noSuchRequester _ => none

theorem refused_of_after {s u : State} {r : Refusal} (h : step s = .refused r) (hu : r.after? = some u) :
    u.refused = true := by
  obtain rfl | ⟨a, rfl⟩ | ⟨a, w, cap, rest, -, rfl | rfl⟩ := step_refused h
  · cases hu
  · cases hu
  · exact Option.some.inj hu ▸ rfl
  · exact Option.some.inj hu ▸ rfl

/-- Settles O35, along the ways a step can go on and can be refused. -/
theorem refusedIsSticky : Obligations.RefusedIsSticky := by
  refine ⟨fun s t hstep => ?_, fun s rest hin => ⟨_, step_hostReset hin, rfl⟩, fun s u a w hstep => ?_⟩
  · obtain ⟨-, rfl⟩ | ⟨rest, -, rfl⟩ | ⟨a, f, rest, v, -, -, -, rfl⟩ | ⟨a, w, cap, rest, i, -, -, -, rfl⟩ :=
      step_next hstep
    all_goals rfl
  · obtain h | h := hstep
    · exact refused_of_after h rfl
    · exact refused_of_after h rfl

/-! ### Requests and reads -/

/-- Settles O49. -/
theorem stepRunsTheDecodedRequest : Obligations.StepRunsTheDecodedRequest := by
  intro s a w cap rest i hpends hdecode
  rw [step_request hpends, serveRequest_ok hdecode]
  rfl

theorem readField_of_get {s : State} {a : Nat} {f : Field} {v : BitVec f.width} (h : (s.rspOf a).get f = some v) :
    s.readField a f = .next { s with readPort := some ⟨a, f, v⟩ } := by
  simp only [State.readField, h]

/-- A served requester's read delivers the field's value or faults, as the field holds one or none. -/
theorem readsAs_get {s : State} {a : Nat} (hs : s.serves a) (f : Field) : s.ReadsAs a f ((s.rspOf a).get f) := by
  intro rest hin
  rw [step_read hin hs]
  exact ⟨fun v hv => readField_of_get (s := { s with inputs := rest }) hv,
    (readField_eq_fault_iff { s with inputs := rest } a f).mpr⟩

theorem run_succ_of_next {M : Host.Core} {s t : M.State} (h : M.step s = .next t) (k : Nat) :
    M.run (k + 1) s = M.run k t := by
  simp only [Host.Core.run, h]

/-- Settles O43: the first read changes neither the register set nor who is served, so the second is the same read. -/
theorem readingHasNoSideEffect : Obligations.ReadingHasNoSideEffect := by
  intro s a f v rest hin hs hv
  have first := (readsAs_get hs f rest hin).1 v hv
  refine ⟨first, fun rest' hrest => ?_⟩
  have served : ({ s with inputs := rest, readPort := some ⟨a, f, v⟩ } : State).serves a := hs
  have second := (readsAs_get served f rest' hrest).1 v hv
  calc Host.Core.run core 2 s
      = Host.Core.run core 1 { s with inputs := rest, readPort := some ⟨a, f, v⟩ } :=
        run_succ_of_next (M := core) first 1
    _ = Host.Core.run core 0 { s with inputs := rest', readPort := some ⟨a, f, v⟩ } :=
        run_succ_of_next (M := core) second 0

/-- Settles O44: the request's step is its operation, which leaves the read waiting and its requester served. -/
theorem resultsAreReadableInTheNextStep : Obligations.ResultsAreReadableInTheNextStep := by
  intro s a w i cap f rest hpends hdecode
  obtain ⟨t, hexec, -, hrsp, hframe⟩ :=
    exec_completes i { s with inputs := .read a f :: rest, requester := a, capture := cap }
  obtain ⟨u, hexec', -, hrsp', -⟩ := exec_completes i { s with requester := a, capture := cap }
  have served : t.serves a := ⟨hframe.refused.trans hpends.2.1, hpends.2.2⟩
  have sameSet : t.rspOf a = u.rspOf a := hrsp.trans hrsp'.symm
  have reads := readsAs_get served f rest hframe.inputs
  rw [sameSet] at reads
  refine ⟨t, u, (stepRunsTheDecodedRequest s a w cap _ i hpends hdecode).trans hexec, hexec', ?_, reads⟩
  rw [exec_eq] at hexec hexec'
  cases hexec
  cases hexec'
  rfl

/-- 60_exceptions.md R171's table. -/
theorem statusCode_eq : Status.code = fun st => if st = .ok then 0#4 else if st = .lengthMismatch then 1#4
    else if st = .headerMismatch then 2#4 else 3#4 := by
  funext st
  cases st <;> rfl

/-- 40_vendor_parity.md R108's table. -/
theorem variantCode_eq : Variant.code = fun var => if var = .generic then 0#3 else if var = .panasonic then 1#3
    else if var = .denon then 2#3 else if var = .mitsubishi then 3#3 else if var = .sharp then 4#3 else 5#3 := by
  funext var
  cases var <;> rfl

theorem ofBool_eq : BitVec.ofBool = fun b => if b then 1#1 else 0#1 := by
  funext b
  cases b <;> rfl

/-- Settles O56: a read delivers the field's value, whose codes and flag bits the statement writes out. -/
theorem eachFieldReadsAsItsOwnValue : Obligations.EachFieldReadsAsItsOwnValue := by
  intro s a hs
  have reads := readsAs_get hs
  have status := reads .status
  have variant := reads .variant
  have vpf := reads .vpf
  have fpf := reads .fpf
  have rpt := reads .rpt
  have xtra := reads .xtra
  simp only [RespSet.get, statusCode_eq, variantCode_eq, ofBool_eq] at status variant vpf fpf rpt xtra
  exact ⟨status, variant, reads .vendor, reads .addr, reads .cmd, reads .nbits, vpf, fpf, rpt, xtra,
    reads .extra, reads .vpar, reads .word0, reads .word1⟩

end Sys2Proof.Machine
end

section
/-!
The invariant (10_state.md sections 4 and 5): the events of one operation are valid and stand in order, an ordered
history may be extended by an ordered list, and a written register set is an operation's result.
-/
namespace Sys2Proof.Machine

/-- What may stand first in a history may stand after any event that asks nothing more. -/
theorem mayFollow_of_none {prev : Option Event} {e : Event} (closed : prev.any Event.asksOn = false)
    (first : mayFollow none e = true) : mayFollow prev e = true := by
  cases e with
  | emit | qLen | reset => simp [mayFollow, closed]
  | qHeader | qBits | qRepeat => cases first

/-- Two complete ordered lists of events make one. -/
theorem queriesInOrder_append {prev : Option Event} {es es' : List Event}
    (h : queriesInOrder prev es = true) (h' : queriesInOrder none es' = true) :
    queriesInOrder prev (es ++ es') = true := by
  induction es generalizing prev with
  | nil =>
    have closed : prev.any Event.asksOn = false := by simpa [queriesInOrder] using h
    cases es' with
    | nil => exact h
    | cons e es' =>
      simp only [queriesInOrder, Bool.and_eq_true, List.nil_append] at h' ⊢
      exact ⟨mayFollow_of_none closed h'.1, h'.2⟩
  | cons e es ih =>
    simp only [queriesInOrder, Bool.and_eq_true, List.cons_append] at h ⊢
    exact ⟨h.1, ih h.2⟩

/-- R153: a DECODE asks on exactly where its answers let it. -/
theorem decodeEvents_inOrder (a : Nat) (c : Capture) : queriesInOrder none (decodeEvents a c) = true := by
  unfold decodeEvents
  split_ifs <;> simp_all [queriesInOrder, mayFollow, Event.asksOn, Option.isSome_iff_ne_none]

theorem opEvents_inOrder (i : Instr) (a : Nat) (cap : Capture) : queriesInOrder none (opEvents i a cap) = true := by
  cases i with
  | decode => exact decodeEvents_inOrder a cap
  | _ => rfl

/-- R125: the `Emit` of an encode carries a frame and an 8-bit repeat count. -/
theorem emitEvent_valid {a : Nat} (ha : a < Config.numRequesters) (v : Half) (addr : Address) (cmd : Byte)
    (rep : Byte) : (emitEvent a v addr cmd (repeatOperand rep)).valid := by
  have low : -128 ≤ rep.toInt := BitVec.le_toInt rep
  have high : rep.toInt < 128 := BitVec.toInt_lt
  refine ⟨ha, rfl, rfl, low, Int.le_of_lt_add_one high, addr, ?_⟩
  rw [txWord0_g0, txWord1_g3]
  exact carriesFrame v addr cmd

theorem decodeEvents_valid {a : Nat} (ha : a < Config.numRequesters) (c : Capture) :
    ∀ e ∈ decodeEvents a c, e.valid := by
  unfold decodeEvents
  split_ifs <;> simp [Event.valid, ha]

theorem opEvents_valid {a : Nat} (ha : a < Config.numRequesters) (i : Instr) (cap : Capture) :
    ∀ e ∈ opEvents i a cap, e.valid := by
  cases h : encodeOperands i with
  | some ops =>
    obtain ⟨v, ai, ci, r⟩ := ops
    rw [opEvents_of_encodeOperands h]
    simpa using emitEvent_valid ha v (addressOperand ai) (commandOperand ci) r
  | none =>
    cases i with
    | decode => exact decodeEvents_valid ha cap
    | vparity | classify => simp [opEvents, encodeOperands]
    | _ => cases h

/-- Settles O51: nothing is listed, and nothing has happened. -/
theorem invariantAtPowerOn : Obligations.InvariantAtPowerOn where
  canonical := rspWf_reset
  owners := by simp [State.reset]
  results := by simp [State.reset]
  ordered := rfl
  events := by simp [State.reset]

/-- The host's reset keeps the invariant: it empties the register sets and appends a `Reset`. -/
theorem State.Inv.hostReset {s : State} (h : s.Inv) : s.hostReset.Inv where
  canonical := rfl
  owners := by simp
  results := by simp
  ordered := queriesInOrder_append h.ordered rfl
  events := by simpa [or_imp, forall_and, Event.valid] using h.events

/-- A completed operation of an existing requester keeps the invariant. -/
theorem State.Inv.completed {s : State} (h : s.Inv) (served : s.requester < Config.numRequesters) (i : Instr)
    (cap : Capture) : ((s.record (opEvents i s.requester cap)).complete (opResult i cap)).Inv where
  canonical := rspWf_writeRsp _ _ _ h.canonical
  owners := by
    intro e he
    obtain rfl | hold := mem_writeRsp he
    · exact served
    · exact h.owners e hold
  results := by
    intro e he
    obtain rfl | hold := mem_writeRsp he
    · exact opResult_isResult i cap
    · exact h.results e hold
  ordered := queriesInOrder_append h.ordered (opEvents_inOrder i s.requester cap)
  events := by
    intro e he
    obtain hold | hnew := List.mem_append.mp he
    · exact h.events e hold
    · exact opEvents_valid served i cap e hnew

/-- The invariant speaks of the register sets and the history alone. -/
theorem State.Inv.congr {s t : State} (h : s.Inv) (rsp : t.rsp = s.rsp) (hist : t.hist = s.hist) : t.Inv where
  canonical := rsp ▸ h.canonical
  owners := rsp ▸ h.owners
  results := rsp ▸ h.results
  ordered := hist ▸ h.ordered
  events := hist ▸ h.events

/-- Settles O52, along the four ways a step can answer a next state. -/
theorem stepKeepsInvariant : Obligations.StepKeepsInvariant := by
  intro s t hinv hstep
  obtain ⟨-, rfl⟩ | ⟨rest, -, rfl⟩ | ⟨a, f, rest, v, -, -, -, rfl⟩ | ⟨a, w, cap, rest, i, -, hs, -, rfl⟩ :=
    step_next hstep
  · exact hinv
  · exact State.Inv.hostReset (hinv.congr rfl rfl)
  · exact hinv.congr rfl rfl
  · exact State.Inv.completed (s := { s with inputs := rest, requester := a, capture := cap })
      (hinv.congr rfl rfl) hs.2 i cap

end Sys2Proof.Machine
end
